-- ==== Sys2Proof/Word.lean ====
section
/-! DEFINITION. The word and field types of the instruction decoder multiplexer (R7, R8, R9, R41). -/

namespace Sys2Proof

/-- The 16-bit instruction word, "the unit of decoding" (R40; `WORD_W` = 16, R7). -/
abbrev Word := BitVec 16

/-- One byte of harness memory; also the width of field KK (`BYTE_W` = 8, R7, R26). -/
abbrev Byte := BitVec 8

/-- A 4-bit field: F, X, Y or N (`REG_IDX_W` = `NIB_W` = 4, R7, R41). -/
abbrev Nibble := BitVec 4

/-- The 12-bit address field NNN (`ADDR_W` = 12, R7, R41). -/
abbrev Addr12 := BitVec 12

end Sys2Proof
end

