-- ==== Sys2Proof/Syntax.lean ====
section
/-! DEFINITION. The 36 decode results as syntax: one constructor of `Instr` per row of the opcode table
(R47, R51), with the operand fields of the row's format (R43) and nothing else; and `RowId`, the name of each row. -/

namespace Sys2Proof

/-- A decoded instruction. The constructor says which row of R47 was selected; its arguments are the row's
operand fields in output order (R43). The bits a row ignores (R48) are not kept. -/
inductive Instr where
  /-- `CLS` (R73). -/
  | cls
  /-- `RET` (R74). -/
  | ret
  /-- `SYS <addr12>` (R75). -/
  | sys (nnn : Addr12)
  /-- `JP <addr12>` (R76). -/
  | jp (nnn : Addr12)
  /-- `CALL <addr12>` (R77). -/
  | call (nnn : Addr12)
  /-- `SE VX, <byte>` (R78). -/
  | seVxByte (x : Nibble) (kk : Byte)
  /-- `SNE VX, <byte>` (R79). -/
  | sneVxByte (x : Nibble) (kk : Byte)
  /-- `SE VX, VY` (R80). -/
  | seVxVy (x y : Nibble)
  /-- `LD VX, <byte>` (R81). -/
  | ldVxByte (x : Nibble) (kk : Byte)
  /-- `ADD VX, <byte>` (R82). -/
  | addVxByte (x : Nibble) (kk : Byte)
  /-- `LD VX, VY` (R83). -/
  | ldVxVy (x y : Nibble)
  /-- `OR VX, VY` (R84). -/
  | orVxVy (x y : Nibble)
  /-- `AND VX, VY` (R85). -/
  | andVxVy (x y : Nibble)
  /-- `XOR VX, VY` (R86). -/
  | xorVxVy (x y : Nibble)
  /-- `ADD VX, VY` (R87). -/
  | addVxVy (x y : Nibble)
  /-- `SUB VX, VY` (R88). -/
  | subVxVy (x y : Nibble)
  /-- `SHR VX` with VY in the braced optional group (R89). -/
  | shrVxVy (x y : Nibble)
  /-- `SUBN VX, VY` (R90). -/
  | subnVxVy (x y : Nibble)
  /-- `SHL VX` with VY in the braced optional group (R91). -/
  | shlVxVy (x y : Nibble)
  /-- `SNE VX, VY` (R93). -/
  | sneVxVy (x y : Nibble)
  /-- `LD I, <addr12>` (R94). -/
  | ldIAddr (nnn : Addr12)
  /-- `LD V0, <addr12>` (R95). -/
  | ldV0Addr (nnn : Addr12)
  /-- `RND VX, <byte>` (R96). -/
  | rndVxByte (x : Nibble) (kk : Byte)
  /-- `DRW VX, VY, <nibble4>` (R97). -/
  | drwVxVyN (x y n : Nibble)
  /-- `SKP VX` (R98). -/
  | skpVx (x : Nibble)
  /-- `SKNP VX` (R99). -/
  | sknpVx (x : Nibble)
  /-- `LD VX, DT` (R101). -/
  | ldVxDt (x : Nibble)
  /-- `LD VX, _KEY_` (R102). -/
  | ldVxKey (x : Nibble)
  /-- `LD DT, VX` (R103). -/
  | ldDtVx (x : Nibble)
  /-- `LD ST, VX` (R104). -/
  | ldStVx (x : Nibble)
  /-- `ADD I, VX` (R105). -/
  | addIVx (x : Nibble)
  /-- `LD _CHAR_, VX` (R106). -/
  | ldCharVx (x : Nibble)
  /-- `LD _BCD_, VX` (R107). -/
  | ldBcdVx (x : Nibble)
  /-- `LD [I], VX` (R108). -/
  | ldMiVx (x : Nibble)
  /-- `LD VX, [I]` (R109). -/
  | ldVxMi (x : Nibble)
  /-- `RAW`, the fallback, with the whole word (R111). -/
  | raw (w : Word)
  deriving DecidableEq, Repr

/-- The name of a row of the dispatch table, in table order (R51, R55). Its code is `RowId.code`. -/
inductive RowId where
  | cls | ret | sys | jp | call | seVxByte | sneVxByte | seVxVy | ldVxByte | addVxByte
  | ldVxVy | orVxVy | andVxVy | xorVxVy | addVxVy | subVxVy | shrVxVy | subnVxVy | shlVxVy
  | sneVxVy | ldIAddr | ldV0Addr | rndVxByte | drwVxVyN | skpVx | sknpVx
  | ldVxDt | ldVxKey | ldDtVx | ldStVx | addIVx | ldCharVx | ldBcdVx | ldMiVx | ldVxMi | raw
  deriving DecidableEq, Repr

end Sys2Proof
end

