-- ==== Sys2Proof/WellFormed.lean ====
section
/-! DEFINITION. Which instructions stand for a word: the exclusions of `SYS` (R75) and of the fallback (R50).
Every other operand value is legal in every position (R17). -/

namespace Sys2Proof

/-- The address of a `SYS` word has neither CLS's nor RET's sub-key in its low byte (R75). -/
def sysAddrOk (nnn : Addr12) : Bool :=
  nnn.extractLsb' 0 8 != 0xE0 && nnn.extractLsb' 0 8 != 0xEE

/-- The fallback space: family 0x8 with N in 8..D or F, family 0xE and family 0xF with no named KK (R50). -/
def isFallbackWord (w : Word) : Bool :=
  (w.extractLsb' 12 4 == 0x8 && [0x8, 0x9, 0xA, 0xB, 0xC, 0xD, 0xF].contains (w.extractLsb' 0 4)) ||
  (w.extractLsb' 12 4 == 0xE && !([0x9E, 0xA1] : List Byte).contains (w.extractLsb' 0 8)) ||
  (w.extractLsb' 12 4 == 0xF &&
    !([0x07, 0x0A, 0x15, 0x18, 0x1E, 0x29, 0x33, 0x55, 0x65] : List Byte).contains (w.extractLsb' 0 8))

/-- The check of an instruction's operands against the words that can select its row. -/
def Instr.wellFormed : Instr → Bool
  | .sys nnn => sysAddrOk nnn
  | .raw w => isFallbackWord w
  | .cls | .ret | .jp _ | .call _ | .seVxByte _ _ | .sneVxByte _ _ | .seVxVy _ _ | .ldVxByte _ _ | .addVxByte _ _
  | .ldVxVy _ _ | .orVxVy _ _ | .andVxVy _ _ | .xorVxVy _ _ | .addVxVy _ _ | .subVxVy _ _ | .shrVxVy _ _
  | .subnVxVy _ _ | .shlVxVy _ _ | .sneVxVy _ _ | .ldIAddr _ | .ldV0Addr _ | .rndVxByte _ _ | .drwVxVyN _ _ _
  | .skpVx _ | .sknpVx _ | .ldVxDt _ | .ldVxKey _ | .ldDtVx _ | .ldStVx _ | .addIVx _ | .ldCharVx _ | .ldBcdVx _
  | .ldMiVx _ | .ldVxMi _ => true

end Sys2Proof
end

