-- ==== Sys2Proof/Decode.lean ====
section
/-! DEFINITION. The decoder: the bit-field extraction (R41, R64), the two-level multiplexer as a total function from
a word to an instruction (R46, R47, R68, R69), the byte-level decoder that reads a word from memory order (R33), the
opcode table with its masks and priorities (R44), and after them the encoder. -/

namespace Sys2Proof

/-! ### The six fields (R41) -/

/-- Field F, bits 15:12: the primary opcode. -/
def fieldF (w : Word) : Nibble := w.extractLsb' 12 4
/-- Field X, bits 11:8. -/
def fieldX (w : Word) : Nibble := w.extractLsb' 8 4
/-- Field Y, bits 7:4. -/
def fieldY (w : Word) : Nibble := w.extractLsb' 4 4
/-- Field N, bits 3:0. -/
def fieldN (w : Word) : Nibble := w.extractLsb' 0 4
/-- Field KK, bits 7:0. -/
def fieldKK (w : Word) : Byte := w.extractLsb' 0 8
/-- Field NNN, bits 11:0. -/
def fieldNNN (w : Word) : Addr12 := w.extractLsb' 0 12

/-! ### The multiplexer, from a word to an instruction -/

/-- Family 0x0: secondary selector KK, default arm `SYS` (R69, R73, R74, R75). -/
def decodeFamily0 (w : Word) : Instr :=
  match fieldKK w with
  | 0xE0#8 => .cls
  | 0xEE#8 => .ret
  | _ => .sys (fieldNNN w)

/-- Family 0x8: secondary selector N, default arm the fallback (R69, R83 to R92). -/
def decodeFamily8 (w : Word) : Instr :=
  match fieldN w with
  | 0x0#4 => .ldVxVy (fieldX w) (fieldY w)
  | 0x1#4 => .orVxVy (fieldX w) (fieldY w)
  | 0x2#4 => .andVxVy (fieldX w) (fieldY w)
  | 0x3#4 => .xorVxVy (fieldX w) (fieldY w)
  | 0x4#4 => .addVxVy (fieldX w) (fieldY w)
  | 0x5#4 => .subVxVy (fieldX w) (fieldY w)
  | 0x6#4 => .shrVxVy (fieldX w) (fieldY w)
  | 0x7#4 => .subnVxVy (fieldX w) (fieldY w)
  | 0xE#4 => .shlVxVy (fieldX w) (fieldY w)
  | _ => .raw w

/-- Family 0xE: secondary selector KK, default arm the fallback (R69, R98, R99, R100). -/
def decodeFamilyE (w : Word) : Instr :=
  match fieldKK w with
  | 0x9E#8 => .skpVx (fieldX w)
  | 0xA1#8 => .sknpVx (fieldX w)
  | _ => .raw w

/-- Family 0xF: secondary selector KK, default arm the fallback (R69, R101 to R110). -/
def decodeFamilyF (w : Word) : Instr :=
  match fieldKK w with
  | 0x07#8 => .ldVxDt (fieldX w)
  | 0x0A#8 => .ldVxKey (fieldX w)
  | 0x15#8 => .ldDtVx (fieldX w)
  | 0x18#8 => .ldStVx (fieldX w)
  | 0x1E#8 => .addIVx (fieldX w)
  | 0x29#8 => .ldCharVx (fieldX w)
  | 0x33#8 => .ldBcdVx (fieldX w)
  | 0x55#8 => .ldMiVx (fieldX w)
  | 0x65#8 => .ldVxMi (fieldX w)
  | _ => .raw w

/-- The primary multiplexer over F (R68). It is total: every word selects exactly one result (R12, R51, R70). The last
arm is F = 0xF, the sixteenth value, which is the one left by the fifteen arms above it. -/
def decode (w : Word) : Instr :=
  match fieldF w with
  | 0x0#4 => decodeFamily0 w
  | 0x1#4 => .jp (fieldNNN w)
  | 0x2#4 => .call (fieldNNN w)
  | 0x3#4 => .seVxByte (fieldX w) (fieldKK w)
  | 0x4#4 => .sneVxByte (fieldX w) (fieldKK w)
  | 0x5#4 => .seVxVy (fieldX w) (fieldY w)
  | 0x6#4 => .ldVxByte (fieldX w) (fieldKK w)
  | 0x7#4 => .addVxByte (fieldX w) (fieldKK w)
  | 0x8#4 => decodeFamily8 w
  | 0x9#4 => .sneVxVy (fieldX w) (fieldY w)
  | 0xA#4 => .ldIAddr (fieldNNN w)
  | 0xB#4 => .ldV0Addr (fieldNNN w)
  | 0xC#4 => .rndVxByte (fieldX w) (fieldKK w)
  | 0xD#4 => .drwVxVyN (fieldX w) (fieldY w) (fieldN w)
  | 0xE#4 => decodeFamilyE w
  | _ => decodeFamilyF w

/-! ### Bytes in memory order -/

/-- The word of two consecutive bytes, the byte at the lower address being the more significant: `hi : lo` (R33). -/
def wordOfBytes (hi lo : Byte) : Word := (hi.setWidth 16 <<< 8) ||| lo.setWidth 16

/-- The high byte of a word, the one at the lower address (R33). -/
def highByte (w : Word) : Byte := w.extractLsb' 8 8

/-- The low byte of a word, the one at the higher address (R33). -/
def lowByte (w : Word) : Byte := w.extractLsb' 0 8

/-- Why a byte sequence holds no instruction. No encoding is illegal (R52); only a sequence with fewer than the two
bytes of a word (R40) is rejected. -/
inductive DecodeError where
  /-- Fewer than two bytes. -/
  | truncatedWord
  deriving DecidableEq, Repr

/-- Decode the first instruction of a byte sequence and give the bytes after it. Every instruction is two bytes long
(R40, R53; log entry 22). -/
def decodeBytes : List Byte → Except DecodeError (Instr × List Byte)
  | hi :: lo :: rest => .ok (decode (wordOfBytes hi lo), rest)
  | [_] => .error .truncatedWord
  | [] => .error .truncatedWord

/-- The instruction the decoder reads from an instruction whose bits are `w`, bit 0 the least significant bit of the
word (R8), of which the table gives `nbits`; the bits above are zero. The word is laid out in memory order, high byte
first (R33). -/
def decodeTableWord (nbits w : Nat) : Option Instr :=
  let word : Word := BitVec.ofNat 16 (w % 2 ^ nbits)
  match decodeBytes [highByte word, lowByte word] with
  | .ok (i, _) => some i
  | .error _ => none

/-! ### The opcode table (R44) -/

/-- One row of the opcode table: the row a word selects if `(word &&& mask) = pattern` and no row of higher priority
matches (R44). -/
structure OpcodeRow where
  row : RowId
  pattern : Word
  mask : Word
  priority : Nat
  deriving DecidableEq, Repr

/-- The rows of families 0x0 to 0x7, in table order. -/
def opcodeRows0to7 : List OpcodeRow :=
  [⟨.cls, 0x00E0, 0xF0FF, 2⟩, ⟨.ret, 0x00EE, 0xF0FF, 2⟩, ⟨.sys, 0x0000, 0xF000, 1⟩, ⟨.jp, 0x1000, 0xF000, 2⟩,
   ⟨.call, 0x2000, 0xF000, 2⟩, ⟨.seVxByte, 0x3000, 0xF000, 2⟩, ⟨.sneVxByte, 0x4000, 0xF000, 2⟩,
   ⟨.seVxVy, 0x5000, 0xF000, 2⟩, ⟨.ldVxByte, 0x6000, 0xF000, 2⟩, ⟨.addVxByte, 0x7000, 0xF000, 2⟩]

/-- The rows of family 0x8, in table order. -/
def opcodeRows8 : List OpcodeRow :=
  [⟨.ldVxVy, 0x8000, 0xF00F, 2⟩, ⟨.orVxVy, 0x8001, 0xF00F, 2⟩, ⟨.andVxVy, 0x8002, 0xF00F, 2⟩,
   ⟨.xorVxVy, 0x8003, 0xF00F, 2⟩, ⟨.addVxVy, 0x8004, 0xF00F, 2⟩, ⟨.subVxVy, 0x8005, 0xF00F, 2⟩,
   ⟨.shrVxVy, 0x8006, 0xF00F, 2⟩, ⟨.subnVxVy, 0x8007, 0xF00F, 2⟩, ⟨.shlVxVy, 0x800E, 0xF00F, 2⟩]

/-- The rows of families 0x9 to 0xE, in table order. -/
def opcodeRows9toE : List OpcodeRow :=
  [⟨.sneVxVy, 0x9000, 0xF000, 2⟩, ⟨.ldIAddr, 0xA000, 0xF000, 2⟩, ⟨.ldV0Addr, 0xB000, 0xF000, 2⟩,
   ⟨.rndVxByte, 0xC000, 0xF000, 2⟩, ⟨.drwVxVyN, 0xD000, 0xF000, 2⟩, ⟨.skpVx, 0xE09E, 0xF0FF, 2⟩,
   ⟨.sknpVx, 0xE0A1, 0xF0FF, 2⟩]

/-- The rows of family 0xF and the fallback, in table order. -/
def opcodeRowsF : List OpcodeRow :=
  [⟨.ldVxDt, 0xF007, 0xF0FF, 2⟩, ⟨.ldVxKey, 0xF00A, 0xF0FF, 2⟩, ⟨.ldDtVx, 0xF015, 0xF0FF, 2⟩,
   ⟨.ldStVx, 0xF018, 0xF0FF, 2⟩, ⟨.addIVx, 0xF01E, 0xF0FF, 2⟩, ⟨.ldCharVx, 0xF029, 0xF0FF, 2⟩,
   ⟨.ldBcdVx, 0xF033, 0xF0FF, 2⟩, ⟨.ldMiVx, 0xF055, 0xF0FF, 2⟩, ⟨.ldVxMi, 0xF065, 0xF0FF, 2⟩,
   ⟨.raw, 0x0000, 0x0000, 0⟩]

/-- The whole table: 36 rows (R51). -/
def opcodeTable : List OpcodeRow :=
  opcodeRows0to7 ++ opcodeRows8 ++ opcodeRows9toE ++ opcodeRowsF

/-- A row matches a word (R44). -/
def OpcodeRow.hits (r : OpcodeRow) (w : Word) : Bool := (w &&& r.mask) == r.pattern

/-- The row of highest priority that matches, as R44 reads the table. -/
def tableRow (w : Word) : Option RowId :=
  let hits := opcodeTable.filter fun r => r.hits w
  ((hits.find? fun r => r.priority == 2) <|> (hits.find? fun r => r.priority == 1) <|>
    (hits.find? fun r => r.priority == 0)).map OpcodeRow.row

/-- The row an instruction is an instance of (R51). -/
def Instr.row : Instr → RowId
  | .cls => .cls
  | .ret => .ret
  | .sys _ => .sys
  | .jp _ => .jp
  | .call _ => .call
  | .seVxByte _ _ => .seVxByte
  | .sneVxByte _ _ => .sneVxByte
  | .seVxVy _ _ => .seVxVy
  | .ldVxByte _ _ => .ldVxByte
  | .addVxByte _ _ => .addVxByte
  | .ldVxVy _ _ => .ldVxVy
  | .orVxVy _ _ => .orVxVy
  | .andVxVy _ _ => .andVxVy
  | .xorVxVy _ _ => .xorVxVy
  | .addVxVy _ _ => .addVxVy
  | .subVxVy _ _ => .subVxVy
  | .shrVxVy _ _ => .shrVxVy
  | .subnVxVy _ _ => .subnVxVy
  | .shlVxVy _ _ => .shlVxVy
  | .sneVxVy _ _ => .sneVxVy
  | .ldIAddr _ => .ldIAddr
  | .ldV0Addr _ => .ldV0Addr
  | .rndVxByte _ _ => .rndVxByte
  | .drwVxVyN _ _ _ => .drwVxVyN
  | .skpVx _ => .skpVx
  | .sknpVx _ => .sknpVx
  | .ldVxDt _ => .ldVxDt
  | .ldVxKey _ => .ldVxKey
  | .ldDtVx _ => .ldDtVx
  | .ldStVx _ => .ldStVx
  | .addIVx _ => .addIVx
  | .ldCharVx _ => .ldCharVx
  | .ldBcdVx _ => .ldBcdVx
  | .ldMiVx _ => .ldMiVx
  | .ldVxMi _ => .ldVxMi
  | .raw _ => .raw

/-! ### The encoder -/

/-- The word with family `f` and fields X, Y, N: `f : x : y : n` (R9, R42). -/
def packXYN (f x y n : Nibble) : Word :=
  (f.setWidth 16 <<< 12) ||| (x.setWidth 16 <<< 8) ||| (y.setWidth 16 <<< 4) ||| n.setWidth 16

/-- The word with family `f` and fields X, KK: `f : x : kk` (R9, R42). -/
def packXKK (f x : Nibble) (kk : Byte) : Word :=
  (f.setWidth 16 <<< 12) ||| (x.setWidth 16 <<< 8) ||| kk.setWidth 16

/-- The word with family `f` and field NNN: `f : nnn` (R9, R42). -/
def packNNN (f : Nibble) (nnn : Addr12) : Word := (f.setWidth 16 <<< 12) ||| nnn.setWidth 16

/-- The word of an instruction, from its pattern (R44, R73 to R111). The bits a row ignores (R48) are written as zero
(DESIGN CHOICE, safe: any value selects the same row; log entry 14). -/
def encode : Instr → Word
  | .cls => 0x00E0
  | .ret => 0x00EE
  | .sys nnn => packNNN 0x0 nnn
  | .jp nnn => packNNN 0x1 nnn
  | .call nnn => packNNN 0x2 nnn
  | .seVxByte x kk => packXKK 0x3 x kk
  | .sneVxByte x kk => packXKK 0x4 x kk
  | .seVxVy x y => packXYN 0x5 x y 0x0
  | .ldVxByte x kk => packXKK 0x6 x kk
  | .addVxByte x kk => packXKK 0x7 x kk
  | .ldVxVy x y => packXYN 0x8 x y 0x0
  | .orVxVy x y => packXYN 0x8 x y 0x1
  | .andVxVy x y => packXYN 0x8 x y 0x2
  | .xorVxVy x y => packXYN 0x8 x y 0x3
  | .addVxVy x y => packXYN 0x8 x y 0x4
  | .subVxVy x y => packXYN 0x8 x y 0x5
  | .shrVxVy x y => packXYN 0x8 x y 0x6
  | .subnVxVy x y => packXYN 0x8 x y 0x7
  | .shlVxVy x y => packXYN 0x8 x y 0xE
  | .sneVxVy x y => packXYN 0x9 x y 0x0
  | .ldIAddr nnn => packNNN 0xA nnn
  | .ldV0Addr nnn => packNNN 0xB nnn
  | .rndVxByte x kk => packXKK 0xC x kk
  | .drwVxVyN x y n => packXYN 0xD x y n
  | .skpVx x => packXKK 0xE x 0x9E
  | .sknpVx x => packXKK 0xE x 0xA1
  | .ldVxDt x => packXKK 0xF x 0x07
  | .ldVxKey x => packXKK 0xF x 0x0A
  | .ldDtVx x => packXKK 0xF x 0x15
  | .ldStVx x => packXKK 0xF x 0x18
  | .addIVx x => packXKK 0xF x 0x1E
  | .ldCharVx x => packXKK 0xF x 0x29
  | .ldBcdVx x => packXKK 0xF x 0x33
  | .ldMiVx x => packXKK 0xF x 0x55
  | .ldVxMi x => packXKK 0xF x 0x65
  | .raw w => w

/-- The bits of an instruction's word that its row ignores (R48): X for CLS and RET, N for the family-5 and family-9
rows, none for any other row. -/
def Instr.ignoredBits (i : Instr) : Word :=
  match i.row with
  | .cls => 0x0F00
  | .ret => 0x0F00
  | .seVxVy => 0x000F
  | .sneVxVy => 0x000F
  | _ => 0x0000

/-- The two bytes of an instruction in memory order (R33). -/
def encodeBytes (i : Instr) : List Byte := [highByte (encode i), lowByte (encode i)]

end Sys2Proof
end

