-- ==== Sys2Proof/Machine/Bus.lean ====
section
/-! DEFINITION. The block's output bus: the record `DecodeOut` (R54) and the codes it carries: row codes (R55),
operand-kind codes (R56) and mnemonic codes (R57), each with the consumer's reading of a code back to its name (R62). -/

namespace Sys2Proof.Machine

/-- The mnemonics, the source's closed enumeration plus the fallback `RAW` (R57). -/
inductive Mnem where
  | cls | ret | sys | jp | call | se | sne | ld | add | or | and | xor | sub | shr | subn | shl | rnd | drw
  | skp | sknp | raw
  deriving DecidableEq, Repr

/-- The operand kinds (R56). -/
inductive Kind where
  /-- Slot unused. -/
  | none
  /-- `VX`, `VY` or `V0`: a register index. -/
  | vreg
  /-- `<addr12>`. -/
  | addr12
  /-- `<byte>`. -/
  | byte
  /-- `<nibble4>`. -/
  | nib4
  /-- `DT`, a name only (R11, R149). -/
  | dt
  /-- `ST`, a name only (R11, R149). -/
  | st
  /-- `I`, a name only (R11). -/
  | i
  /-- `[I]`, a name only (R11). -/
  | memI
  /-- `_KEY_`, a name only (R11). -/
  | key
  /-- `_CHAR_`, a name only (R11). -/
  | char
  /-- `_BCD_`, a name only (R11). -/
  | bcd
  /-- The raw word of the fallback. -/
  | word16
  deriving DecidableEq, Repr

/-- The `op_id_o` code of each row (R55). -/
def rowCode : RowId → BitVec 6
  | .cls => 0
  | .ret => 1
  | .sys => 2
  | .jp => 3
  | .call => 4
  | .seVxByte => 5
  | .sneVxByte => 6
  | .seVxVy => 7
  | .ldVxByte => 8
  | .addVxByte => 9
  | .ldVxVy => 10
  | .orVxVy => 11
  | .andVxVy => 12
  | .xorVxVy => 13
  | .addVxVy => 14
  | .subVxVy => 15
  | .shrVxVy => 16
  | .subnVxVy => 17
  | .shlVxVy => 18
  | .sneVxVy => 19
  | .ldIAddr => 20
  | .ldV0Addr => 21
  | .rndVxByte => 22
  | .drwVxVyN => 23
  | .skpVx => 24
  | .sknpVx => 25
  | .ldVxDt => 26
  | .ldVxKey => 27
  | .ldDtVx => 28
  | .ldStVx => 29
  | .addIVx => 30
  | .ldCharVx => 31
  | .ldBcdVx => 32
  | .ldMiVx => 33
  | .ldVxMi => 34
  | .raw => 35

/-- The `mnem_o` code of each mnemonic (R57). R57 counts 13 rows of `LD`; the map of R47, the codes of R55 and the rows'
own rules R81 to R109 give 12, and the model has those 12 (DEDUCED; log entry 25). -/
def mnemCode : Mnem → BitVec 5
  | .cls => 0
  | .ret => 1
  | .sys => 2
  | .jp => 3
  | .call => 4
  | .se => 5
  | .sne => 6
  | .ld => 7
  | .add => 8
  | .or => 9
  | .and => 10
  | .xor => 11
  | .sub => 12
  | .shr => 13
  | .subn => 14
  | .shl => 15
  | .rnd => 16
  | .drw => 17
  | .skp => 18
  | .sknp => 19
  | .raw => 20

/-- The kind code of each operand kind (R56). -/
def kindCode : Kind → BitVec 4
  | .none => 0
  | .vreg => 1
  | .addr12 => 2
  | .byte => 3
  | .nib4 => 4
  | .dt => 5
  | .st => 6
  | .i => 7
  | .memI => 8
  | .key => 9
  | .char => 10
  | .bcd => 11
  | .word16 => 12

/-- The rows of codes 0 to 18. -/
def rowsFamilies0to8 : List RowId :=
  [.cls, .ret, .sys, .jp, .call, .seVxByte, .sneVxByte, .seVxVy, .ldVxByte, .addVxByte, .ldVxVy, .orVxVy, .andVxVy,
   .xorVxVy, .addVxVy, .subVxVy, .shrVxVy, .subnVxVy, .shlVxVy]

/-- The rows of codes 19 to 35. -/
def rowsFamilies9toF : List RowId :=
  [.sneVxVy, .ldIAddr, .ldV0Addr, .rndVxByte, .drwVxVyN, .skpVx, .sknpVx, .ldVxDt, .ldVxKey, .ldDtVx, .ldStVx, .addIVx,
   .ldCharVx, .ldBcdVx, .ldMiVx, .ldVxMi, .raw]

/-- Every row, in the order of its code. -/
def allRows : List RowId := rowsFamilies0to8 ++ rowsFamilies9toF

/-- Every mnemonic, in the order of its code. -/
def allMnems : List Mnem :=
  [.cls, .ret, .sys, .jp, .call, .se, .sne, .ld, .add, .or, .and, .xor, .sub, .shr, .subn, .shl, .rnd, .drw,
   .skp, .sknp, .raw]

/-- Every operand kind, in the order of its code. -/
def allKinds : List Kind :=
  [.none, .vreg, .addr12, .byte, .nib4, .dt, .st, .i, .memI, .key, .char, .bcd, .word16]

/-- A consumer's reading of `op_id_o`: codes 36 to 63 have no meaning and are refused (R62, U4). -/
def rowOfCode (c : BitVec 6) : Option RowId := allRows.find? fun r => rowCode r == c

/-- A consumer's reading of `mnem_o`: codes 21 to 31 have no meaning and are refused (R62, U4). -/
def mnemOfCode (c : BitVec 5) : Option Mnem := allMnems.find? fun m => mnemCode m == c

/-- A consumer's reading of a kind code: codes 13 to 15 have no meaning and are refused (R62, U4). -/
def kindOfCode (c : BitVec 4) : Option Kind := allKinds.find? fun k => kindCode k == c

/-- The block's output ports, with the widths of R54. A one-bit port is a `Bool`. The input port `word_i` is the
state's `wordI`. -/
structure DecodeOut where
  /-- Field F (R64). -/
  famO : BitVec 4
  /-- Field X (R64). -/
  xO : BitVec 4
  /-- Field Y (R64). -/
  yO : BitVec 4
  /-- Field N (R64). -/
  nO : BitVec 4
  /-- Field KK (R64). -/
  kkO : BitVec 8
  /-- Field NNN (R64). -/
  nnnO : BitVec 12
  /-- The family has a secondary selector (R66). -/
  hasSubO : Bool
  /-- The value of the secondary selector (R66). -/
  subO : BitVec 8
  /-- Which row was selected (R55). -/
  opIdO : BitVec 6
  /-- The mnemonic code (R57). -/
  mnemO : BitVec 5
  /-- The number of operands, 0 to 3 (R59). -/
  nopsO : BitVec 2
  /-- Kind of operand 1 (R56, R58). -/
  k1O : BitVec 4
  /-- Kind of operand 2 (R56, R58). -/
  k2O : BitVec 4
  /-- Kind of operand 3 (R56, R58). -/
  k3O : BitVec 4
  /-- Value of operand 1 (R45, R58). -/
  v1O : BitVec 16
  /-- Value of operand 2 (R45, R58). -/
  v2O : BitVec 16
  /-- Value of operand 3 (R45, R58). -/
  v3O : BitVec 16
  /-- Operand 2 is the braced optional operand (R60). -/
  opt2O : Bool
  /-- The fallback was selected (R61). -/
  rawO : Bool
  deriving DecidableEq, Repr

/-- The bus with every port at zero: a starting record whose every port `driveFields` and `emit` overwrite. -/
def DecodeOut.blank : DecodeOut :=
  { famO := 0, xO := 0, yO := 0, nO := 0, kkO := 0, nnnO := 0, hasSubO := false, subO := 0, opIdO := 0, mnemO := 0,
    nopsO := 0, k1O := 0, k2O := 0, k3O := 0, v1O := 0, v2O := 0, v3O := 0, opt2O := false, rawO := false }

end Sys2Proof.Machine
end

