-- ==== Sys2Proof/Machine/Operands.lean ====
section
/-! DEFINITION. Every operand form (R45, R56): a kind with its 16-bit value, zero-extended and never scaled, shifted
or sign-extended (R9), and the filling of the three slots (R58). -/

namespace Sys2Proof.Machine

/-- One operand: the pair (kind, value) of R67. -/
structure Operand where
  kind : Kind
  value : Word
  deriving DecidableEq, Repr

/-- The content of an unused slot: (`NONE`, 0x0000) (R58). -/
def Operand.unused : Operand := ⟨.none, 0x0000⟩

/-- A register operand `VX` or `VY`, named by its index (R11, R45). -/
def Operand.vreg (r : Nibble) : Operand := ⟨.vreg, r.setWidth 16⟩

/-- The constant register operand `V0` of family 0xB (R45, R95). -/
def Operand.v0 : Operand := ⟨.vreg, 0x0000⟩

/-- An address operand `<addr12>` (R45). -/
def Operand.addr12 (nnn : Addr12) : Operand := ⟨.addr12, nnn.setWidth 16⟩

/-- A byte operand `<byte>` (R45). -/
def Operand.byte (kk : Byte) : Operand := ⟨.byte, kk.setWidth 16⟩

/-- A nibble operand `<nibble4>` (R45). -/
def Operand.nib4 (n : Nibble) : Operand := ⟨.nib4, n.setWidth 16⟩

/-- The raw word of the fallback (R45, R111). -/
def Operand.word16 (w : Word) : Operand := ⟨.word16, w⟩

/-- The symbolic operand `DT`, which carries no value (R58). -/
def Operand.dt : Operand := ⟨.dt, 0x0000⟩

/-- The symbolic operand `ST`, which carries no value (R58). -/
def Operand.st : Operand := ⟨.st, 0x0000⟩

/-- The symbolic operand `I`, which carries no value (R58). -/
def Operand.i : Operand := ⟨.i, 0x0000⟩

/-- The symbolic operand `[I]`, which carries no value (R58). -/
def Operand.memI : Operand := ⟨.memI, 0x0000⟩

/-- The symbolic operand `_KEY_`, which carries no value (R58). -/
def Operand.key : Operand := ⟨.key, 0x0000⟩

/-- The symbolic operand `_CHAR_`, which carries no value (R58). -/
def Operand.char : Operand := ⟨.char, 0x0000⟩

/-- The symbolic operand `_BCD_`, which carries no value (R58). -/
def Operand.bcd : Operand := ⟨.bcd, 0x0000⟩

/-- Slot `s` (counted from 0) of an operand list: the operand there, or the unused slot after the last (R58, R67). -/
def slot (ops : List Operand) (s : Nat) : Operand := ops.getD s .unused

end Sys2Proof.Machine
end

