-- ==== Sys2Proof/Machine/Flags.lean ====
section
/-! DEFINITION. The flag and count ports. The decoded machine's own flags and condition codes do not exist in the
block (R19): what the block has are `has_sub_o` and `sub_o` (R66), `nops_o` (R59) and `raw_o` (R61). `opt2_o` (R60) is
an argument of `emit`, given by each arm. -/

namespace Sys2Proof.Machine

/-- The secondary selector of a word: KK for families 0x0, 0xE and 0xF, N zero-extended for family 0x8, none for the
other twelve (R46, R66). -/
def subKey (w : Word) : Option Byte :=
  match fieldF w with
  | 0x0#4 => some (fieldKK w)
  | 0xE#4 => some (fieldKK w)
  | 0xF#4 => some (fieldKK w)
  | 0x8#4 => some ((fieldN w).setWidth 8)
  | _ => none

/-- `nops_o`: the number of operands (R59, R67). -/
def operandCount (ops : List Operand) : BitVec 2 := BitVec.ofNat 2 ops.length

/-- `raw_o`: 1 exactly when the row code is 35 (R61, R67). -/
def rawFlag (id : RowId) : Bool := rowCode id == 35

end Sys2Proof.Machine
end

