-- ==== Sys2Proof/Machine/Ports.lean ====
section
/-! DEFINITION. The two writers of the output bus: the extractor, which drives the field and secondary-selector ports
from the input word (R64, R65, R66), and `emit`, which writes the classification ports and no other (R67). -/

namespace Sys2Proof.Machine

/-- The bit-field extractor: drives the six field ports (R64) and the two secondary-selector ports (R66) from the word
on the input, for every word; the classification ports are left as they are. -/
def driveFields (w : Word) (d : DecodeOut) : DecodeOut :=
  { d with
    famO := fieldF w, xO := fieldX w, yO := fieldY w, nO := fieldN w, kkO := fieldKK w, nnnO := fieldNNN w,
    hasSubO := (subKey w).isSome, subO := (subKey w).getD 0x00 }

/-- `Emit(id, m, ops, opt)`: writes the classification ports; the extractor and secondary-selector ports are left as
they are (R67). -/
def emit (id : RowId) (m : Mnem) (ops : List Operand) (opt : Bool) (d : DecodeOut) : DecodeOut :=
  { d with
    opIdO := rowCode id, mnemO := mnemCode m, nopsO := operandCount ops,
    k1O := kindCode (slot ops 0).kind, v1O := (slot ops 0).value,
    k2O := kindCode (slot ops 1).kind, v2O := (slot ops 1).value,
    k3O := kindCode (slot ops 2).kind, v3O := (slot ops 2).value,
    opt2O := opt, rawO := rawFlag id }

end Sys2Proof.Machine
end

