-- ==== Sys2Proof/Machine/Block.lean ====
section
/-! DEFINITION. `Decode(w)`: the block as the spec writes it (R10, R12, R68), one total function from a word to the
record of its output ports, transcribed from the pseudocode of R68, R73 to R111. It is what a bus reading must equal
(R72); the meanings of the instructions (the family files) are written separately and do not call it. -/

namespace Sys2Proof.Machine

/-- `Fallback(w)` (R111). -/
def fallbackArm (w : Word) : DecodeOut → DecodeOut := emit .raw .raw [.word16 w] false

/-- `Family0(w)`: R73, R74, and R75 as the default arm. -/
def family0Arm (w : Word) : DecodeOut → DecodeOut :=
  if fieldKK w = 0xE0#8 then emit .cls .cls [] false
  else if fieldKK w = 0xEE#8 then emit .ret .ret [] false
  else emit .sys .sys [.addr12 (fieldNNN w)] false

/-- `Family8(w)`: R83 to R91, and R92 as the default arm. -/
def family8Arm (w : Word) : DecodeOut → DecodeOut :=
  let vxvy := [Operand.vreg (fieldX w), Operand.vreg (fieldY w)]
  if fieldN w = 0x0#4 then emit .ldVxVy .ld vxvy false
  else if fieldN w = 0x1#4 then emit .orVxVy .or vxvy false
  else if fieldN w = 0x2#4 then emit .andVxVy .and vxvy false
  else if fieldN w = 0x3#4 then emit .xorVxVy .xor vxvy false
  else if fieldN w = 0x4#4 then emit .addVxVy .add vxvy false
  else if fieldN w = 0x5#4 then emit .subVxVy .sub vxvy false
  else if fieldN w = 0x6#4 then emit .shrVxVy .shr vxvy true
  else if fieldN w = 0x7#4 then emit .subnVxVy .subn vxvy false
  else if fieldN w = 0xE#4 then emit .shlVxVy .shl vxvy true
  else fallbackArm w

/-- `FamilyE(w)`: R98, R99, and R100 as the default arm. -/
def familyEArm (w : Word) : DecodeOut → DecodeOut :=
  if fieldKK w = 0x9E#8 then emit .skpVx .skp [.vreg (fieldX w)] false
  else if fieldKK w = 0xA1#8 then emit .sknpVx .sknp [.vreg (fieldX w)] false
  else fallbackArm w

/-- `FamilyF(w)`: R101 to R109, and R110 as the default arm. -/
def familyFArm (w : Word) : DecodeOut → DecodeOut :=
  if fieldKK w = 0x07#8 then emit .ldVxDt .ld [.vreg (fieldX w), .dt] false
  else if fieldKK w = 0x0A#8 then emit .ldVxKey .ld [.vreg (fieldX w), .key] false
  else if fieldKK w = 0x15#8 then emit .ldDtVx .ld [.dt, .vreg (fieldX w)] false
  else if fieldKK w = 0x18#8 then emit .ldStVx .ld [.st, .vreg (fieldX w)] false
  else if fieldKK w = 0x1E#8 then emit .addIVx .add [.i, .vreg (fieldX w)] false
  else if fieldKK w = 0x29#8 then emit .ldCharVx .ld [.char, .vreg (fieldX w)] false
  else if fieldKK w = 0x33#8 then emit .ldBcdVx .ld [.bcd, .vreg (fieldX w)] false
  else if fieldKK w = 0x55#8 then emit .ldMiVx .ld [.memI, .vreg (fieldX w)] false
  else if fieldKK w = 0x65#8 then emit .ldVxMi .ld [.vreg (fieldX w), .memI] false
  else fallbackArm w

/-- The 16-way primary multiplexer (R68). The last arm is F = 0xF, the sixteenth value. -/
def primaryArm (w : Word) : DecodeOut → DecodeOut :=
  if fieldF w = 0x0#4 then family0Arm w
  else if fieldF w = 0x1#4 then emit .jp .jp [.addr12 (fieldNNN w)] false
  else if fieldF w = 0x2#4 then emit .call .call [.addr12 (fieldNNN w)] false
  else if fieldF w = 0x3#4 then emit .seVxByte .se [.vreg (fieldX w), .byte (fieldKK w)] false
  else if fieldF w = 0x4#4 then emit .sneVxByte .sne [.vreg (fieldX w), .byte (fieldKK w)] false
  else if fieldF w = 0x5#4 then emit .seVxVy .se [.vreg (fieldX w), .vreg (fieldY w)] false
  else if fieldF w = 0x6#4 then emit .ldVxByte .ld [.vreg (fieldX w), .byte (fieldKK w)] false
  else if fieldF w = 0x7#4 then emit .addVxByte .add [.vreg (fieldX w), .byte (fieldKK w)] false
  else if fieldF w = 0x8#4 then family8Arm w
  else if fieldF w = 0x9#4 then emit .sneVxVy .sne [.vreg (fieldX w), .vreg (fieldY w)] false
  else if fieldF w = 0xA#4 then emit .ldIAddr .ld [.i, .addr12 (fieldNNN w)] false
  else if fieldF w = 0xB#4 then emit .ldV0Addr .ld [.v0, .addr12 (fieldNNN w)] false
  else if fieldF w = 0xC#4 then emit .rndVxByte .rnd [.vreg (fieldX w), .byte (fieldKK w)] false
  else if fieldF w = 0xD#4 then emit .drwVxVyN .drw [.vreg (fieldX w), .vreg (fieldY w), .nib4 (fieldN w)] false
  else if fieldF w = 0xE#4 then familyEArm w
  else familyFArm w

/-- `Decode(w)`: the extractor and secondary-selector ports of the word (R64, R66) and the classification ports of the
arm it selects (R68). The block holds no state: its output is a function of its current input alone (R15, R16). -/
def blockDecode (w : Word) : DecodeOut := primaryArm w (driveFields w .blank)

end Sys2Proof.Machine
end

