-- ==== Sys2Proof/Config.lean ====
section
/-! DEFINITION. The implementation parameters of R7, and the parameters that the spec leaves open
(93_implementation_defined.md items U10, U11, U12), which are opaque: nothing can be proved of their values. -/

namespace Sys2Proof

/-- `MEM_SIZE`: harness memory size in bytes (R7, R26). -/
def Config.memSize : Nat := 4096

/-- `BASE`: harness load and scan start offset (R7, R27, R131). -/
def Config.base : Nat := 0x200

/-- `MAX_LOAD` = `MEM_SIZE` − `BASE`: the largest program the harness accepts (R7, R29). -/
def Config.maxLoad : Nat := Config.memSize - Config.base

/-- Whether the default output file name keeps the extension of the input's base name (R127): not said, so a parameter
(U11, N15). Log entry 17. -/
opaque Config.keepsExtension : Bool

/-- Whether the header lines are written for an empty listing: a parameter (U12). Log entry 17. -/
opaque Config.headerWhenEmpty : Bool

/-- The process exit code that goes with an outcome code of R154: any value (U10). Log entry 18. -/
opaque Config.exitCode : Nat → Nat

end Sys2Proof
end

