-- ==== Sys2Proof/Machine/Memory.lean ====
section
/-! DEFINITION. The harness memory `Mem` (R26): a list of (address, byte) pairs in one canonical form, an unlisted
address reading 0x00 (R28). -/

namespace Sys2Proof.Machine

/-- Harness memory as the list of its nonzero bytes, addresses strictly rising. -/
abbrev Memory := List Host.Cell

/-- What an address reads as that nothing has written: 0x00, the value at allocation (R28). -/
def Memory.unlisted : Byte := 0x00

/-- `MemRead(a, 1)` inside the address space: the byte listed at `a`, else 0x00 (R10, R28, R34). -/
def Memory.read : Memory → Nat → Byte
  | [], _ => Memory.unlisted
  | (b, v) :: m, a => if a = b then v else Memory.read m a

/-- The cell of an address and a byte, in canonical form: nothing where the byte is what an unlisted address reads. -/
def Memory.cell (a : Nat) (v : Byte) : Memory := if v = Memory.unlisted then [] else [(a, v)]

/-- `MemWrite(a, 1, v)` (R10), keeping the canonical form. -/
def Memory.write : Memory → Nat → Byte → Memory
  | [], a, v => Memory.cell a v
  | (b, u) :: m, a, v =>
    if a < b then Memory.cell a v ++ (b, u) :: m
    else if a = b then Memory.cell a v ++ m
    else (b, u) :: Memory.write m a v

/-- The loader's loop: the bytes in order from address `a` (R30). -/
def Memory.writeBytes : Memory → Nat → List Byte → Memory
  | m, _, [] => m
  | m, a, v :: vs => Memory.writeBytes (Memory.write m a v) (a + 1) vs

/-- Every listed address is at least `lo`, inside the address space (R26) and below the next one, and no listed byte is
0x00. -/
def Memory.wfFrom : Nat → Memory → Bool
  | _, [] => true
  | lo, (a, v) :: m => decide (lo ≤ a) && decide (a < Config.memSize) && (v != Memory.unlisted) && Memory.wfFrom (a + 1) m

/-- The canonical form of memory. -/
def Memory.wf (m : Memory) : Bool := Memory.wfFrom 0 m

/-- An address of the one address space, 0x000 to 0xFFF (R26). -/
def inMem (a : Nat) : Bool := decide (a < Config.memSize)

/-- `Word(a)`: the byte at `a` is the more significant (R33). -/
def Memory.wordAt (m : Memory) (a : Nat) : Word :=
  wordOfBytes (Memory.read m a) (Memory.read m (a + 1))

end Sys2Proof.Machine
end

