-- ==== Sys2Proof/Machine/State.lean ====
section
/-! DEFINITION. The machine's state: the block's input and output wires (R54) and all the state of the reference
harness (R22), the reasons a step can stop, and the state at the start of a run (R24, R159). -/

namespace Sys2Proof.Machine

/-- The harness's outcome codes, by name (R154). -/
inductive HarnessOutcome where
  /-- `OK`: no error found. -/
  | ok
  /-- `INPUT_UNAVAILABLE`: the input cannot be opened or read (R31). -/
  | inputUnavailable
  /-- `CAPACITY_EXCEEDED`: the input is longer than 3584 bytes (R29). -/
  | capacityExceeded
  deriving DecidableEq, Repr

/-- The three ways a run ends (R139). -/
inductive StopReason where
  /-- The loader failed (R129). -/
  | loadFailed
  /-- The bound of R132 held. -/
  | bound
  /-- The sentinel word of R134 was read. -/
  | sentinel
  deriving DecidableEq, Repr

/-- What the machine does next: the control point of the harness's sequence "load, then scan" (R37, R130), or the block
driven directly by an integrator (R25, R158). The model's own field (log entries 6 and 7). -/
inductive Phase where
  /-- A run has started; the loader acts next (R160). -/
  | load
  /-- The loader succeeded; the scan loop acts next (R130). -/
  | scan
  /-- The run has ended (R139). -/
  | ended (r : StopReason)
  /-- No harness run: whoever drives `word_i` has put a word on it, and the block evaluates it (R25, R158). -/
  | driven
  deriving DecidableEq, Repr

/-- A ListingEntry: an offset and the decode result of the word there (R13, R135). -/
structure ListingEntry where
  offset : Nat
  result : DecodeOut
  deriving DecidableEq, Repr

/-- Why a step faults. -/
inductive Fault where
  /-- The scan would read a byte at an address outside `Mem` (R26). Raised by the scan's fetch. R36 says the scan never
  does so, and no run from reset does; a state that no run reaches can. SAFE: the model stops (log entry 12). -/
  | fetchOutsideMem (a : Nat)
  deriving DecidableEq, Repr

/-- Why a step has no meaning. -/
inductive Refusal where
  /-- An instruction whose meaning is not modelled. Raised by no arm of `exec`: every instruction has its meaning. SAFE. -/
  | notModelled (mnemonic : String)
  /-- The scan is asked for although `loaded` is false: the scan does not run after a failed load (R129, R156, U3).
  Raised by `step`. SAFE: the model stops (log entry 10). -/
  | scanNotLoaded (o : HarnessOutcome)
  deriving DecidableEq, Repr

/-- The machine's state. -/
structure State where
  /-- The block's input port `word_i` (R54): the word now on the wire. No storage of the block's (R15; log entry 2). -/
  wordI : Word
  /-- The block's output ports (R54): the values now on the wires. No storage of the block's (R15). -/
  out : DecodeOut
  /-- `Mem[0x000..0xFFF]` (R22, R26), from the start of a run to its end (R23). -/
  mem : Memory
  /-- `len`: the number of program bytes loaded (R22). -/
  len : Nat
  /-- `loaded`: the load succeeded (R22). -/
  loaded : Bool
  /-- `off`: the address of the next word to scan (R22). -/
  off : Nat
  /-- `listing`: the dump, oldest entry first (R22). -/
  listing : List ListingEntry
  /-- `outcome`: the harness result (R22, R154). -/
  outcome : HarnessOutcome
  /-- The input file `P` of R30: its bytes, or none where it cannot be opened or read (R31). An input from outside. -/
  input : Option (List Byte)
  /-- What the machine does next. The model's own field (log entry 6). -/
  phase : Phase
  deriving DecidableEq, Repr

/-- The start of a run: every harness state item at its initial value (R22, R24, R159), nothing loaded, no input file
given, and 0x0000 on `word_i` (DESIGN CHOICE; log entries 3, 4 and 5), so that the ports read `Decode(0x0000)` (R158). -/
def State.reset : State :=
  { wordI := 0x0000, out := blockDecode 0x0000, mem := [], len := 0, loaded := false, off := Config.base,
    listing := [], outcome := .ok, input := none, phase := .load }

end Sys2Proof.Machine
end

