-- ==== Sys2Proof/Machine/Ops.lean ====
section
/-! DEFINITION. The named operations on the state: putting a word on the block's input (R64), writing the classification
ports (R67), the loader (R29, R30, R31), raising a harness failure (R154 to R156), the scan's fetch and its record of an
entry (R131 to R136), and what the outside world can do (R23, R25). -/

namespace Sys2Proof.Machine

/-! ### The block -/

/-- A word is put on `word_i`; the extractor drives its ports from it at once (R64, R65, R66). -/
def State.present (w : Word) (s : State) : State := { s with wordI := w, out := driveFields w s.out }

/-- An arm's one call of `Emit` (R67): the classification ports are written, nothing else. -/
def State.emit (id : RowId) (m : Mnem) (ops : List Operand) (opt : Bool) (s : State) : State :=
  { s with out := Machine.emit id m ops opt s.out }

/-! ### Failures (R154 to R156)

The block raises no exception, takes no interrupt and has no trap entry or return (R140 to R146). The only `raise` is the
loader's. -/

/-- The outcome code of R154. -/
def HarnessOutcome.code : HarnessOutcome → Nat
  | .ok => 0
  | .inputUnavailable => 1
  | .capacityExceeded => 2

/-- The run ends (R139): its memory is discarded (R23), that is, no byte is held any more. The listing, "the sole durable
output", stays; that `len`, `loaded` and `off` stay until the next run, and the wires too, is the model's choice (DESIGN
CHOICE; log entries 11 and 15). -/
def State.endRun (r : StopReason) (s : State) : State := { s with mem := [], phase := .ended r }

/-- `raise <Outcome>(info)`: the failure is reported in `outcome` and the run ends without a scan (R156). No byte of the
input is written, and `loaded` and the listing stay as they were (R29, R31; log entries 9 and 20). Where the `info` of R10
and R29 is kept is not said, and `outcome` is a bare code (R22, R154): the model drops it (DESIGN CHOICE; log entry 24). -/
def State.raise (o : HarnessOutcome) (s : State) : State := { s.endRun .loadFailed with outcome := o }

/-! ### The loader -/

/-- The load proper (R30), which ends at the start of the scan: `off` at `BASE` and an empty listing (R131). -/
def State.loadBytes (p : List Byte) (s : State) : State :=
  { s with
    mem := Memory.writeBytes s.mem Config.base p, len := p.length, loaded := true,
    off := Config.base, listing := [], phase := .scan }

/-- The loader: an unreadable input is decided first (R31, R155), then the capacity (R29), then the load (R30). -/
def State.load (s : State) : State :=
  match s.input with
  | none => s.raise .inputUnavailable
  | some p => if p.length > Config.maxLoad then s.raise .capacityExceeded else s.loadBytes p

/-! ### The scan -/

/-- What the scan loop finds before it presents a word (R130). -/
inductive Fetch where
  /-- `loaded` is false (R129). -/
  | notLoaded
  /-- The scan stops (R132, R134). -/
  | stop (r : StopReason)
  /-- The word to decode (R133). -/
  | word (w : Word)
  /-- An address outside memory would be read (R26, R36). -/
  | outside (a : Nat)
  deriving DecidableEq, Repr

/-- The head of the scan loop: the precondition (R129), the bound (R132), the read of the word at `off`, high byte first
(R133), and the sentinel (R134). An odd `off`, which no run reaches, is read as it is (R35; log entry 13). -/
def State.fetch (s : State) : Fetch :=
  if s.loaded = false then .notLoaded
  else if Config.base + s.len ≤ s.off then .stop .bound
  else if inMem s.off = false then .outside s.off
  else if inMem (s.off + 1) = false then .outside (s.off + 1)
  else if s.mem.wordAt s.off = 0x0000#16 then .stop .sentinel
  else .word (s.mem.wordAt s.off)

/-- The tail of the scan loop: the entry `(off, Decode(w))` read from the block's ports is appended (R135) and `off`
advances by 2 (R136). -/
def State.record (s : State) : State :=
  { s with listing := s.listing ++ [⟨s.off, s.out⟩], off := s.off + 2 }

/-! ### From outside -/

/-- A new run is started on an input file: every harness state item takes its initial value and nothing survives from an
earlier run (R23, R24, R159). The block's wires are not the harness's and stay (log entry 19). -/
def State.startRun (input : Option (List Byte)) (s : State) : State :=
  { s with
    mem := [], len := 0, loaded := false, off := Config.base, listing := [], outcome := .ok, input := input,
    phase := .load }

/-- An integrator puts a word on `word_i` (R25): the ports settle at `Decode` of it (R158; settling takes no step, R163,
log entry 16), and the next step is one evaluation of the word (log entry 7). -/
def State.drive (w : Word) (s : State) : State := { s with wordI := w, out := blockDecode w, phase := .driven }

/-- The scan offset stands on a whole word of the program area (R27, R36). -/
def State.offInMem (s : State) : Bool := decide (Config.base ≤ s.off) && inMem (s.off + 1)

/-- A word stored where the scan reads its next one: at `off`, high byte first (R33), inside the loaded length, with the
scan about to run. It stands for a load of a program that has the word there (R30). -/
def State.storeNext (w : Word) (s : State) : State :=
  { s with
    mem := Memory.writeBytes s.mem s.off [highByte w, lowByte w],
    len := max s.len (s.off + 2 - Config.base), loaded := true, phase := .scan }

/-- The instruction word placed so that the very next step decodes it: in memory for the scan, or on `word_i` for the
word 0x0000, which the scan never presents (R134), and where `off` is no place of the program area (log entry 8). -/
def State.placeWord (w : Word) (s : State) : State :=
  if w = 0x0000#16 then s.drive w
  else if s.offInMem then s.storeNext w
  else s.drive w

end Sys2Proof.Machine
end

