-- ==== Sys2Proof/Machine/Fallback.lean ====
section
/-! DEFINITION. The meanings of the raw fallback (R111), which families 0x8, 0xE and 0xF take for every sub-key they
do not name (R92, R100, R110). Each instruction has its decode semantics only (R6): its arm's one call of `Emit`
(R67). No flag is written and no exception raised (R140). -/

namespace Sys2Proof.Machine

/-- `RAW`: the whole word as the one operand. Not an error (R112, R141) (R111). -/
def execRaw (w : Word) (s : State) : Host.Outcome State Fault Refusal :=
  .next (s.emit .raw .raw [.word16 w] false)

end Sys2Proof.Machine
end

