-- ==== Sys2Proof/Machine/Families1To7.lean ====
section
/-! DEFINITION. The meanings of families 0x1 to 0x7: JP, CALL, SE, SNE, LD, ADD (R76 to R82). Each instruction has its
decode semantics only (R6): its arm's one call of `Emit` (R67). No flag is written and no exception raised (R140). -/

namespace Sys2Proof.Machine

/-- `JP <addr12>`. The jump is not followed (R137) (R76). -/
def execJp (nnn : Addr12) (s : State) : Host.Outcome State Fault Refusal :=
  .next (s.emit .jp .jp [.addr12 nnn] false)

/-- `CALL <addr12>`. No return-address state exists (R77). -/
def execCall (nnn : Addr12) (s : State) : Host.Outcome State Fault Refusal :=
  .next (s.emit .call .call [.addr12 nnn] false)

/-- `SE VX, <byte>` (R78). -/
def execSeVxByte (x : Nibble) (kk : Byte) (s : State) : Host.Outcome State Fault Refusal :=
  .next (s.emit .seVxByte .se [.vreg x, .byte kk] false)

/-- `SNE VX, <byte>` (R79). -/
def execSneVxByte (x : Nibble) (kk : Byte) (s : State) : Host.Outcome State Fault Refusal :=
  .next (s.emit .sneVxByte .sne [.vreg x, .byte kk] false)

/-- `SE VX, VY`, for every N (R80). -/
def execSeVxVy (x y : Nibble) (s : State) : Host.Outcome State Fault Refusal :=
  .next (s.emit .seVxVy .se [.vreg x, .vreg y] false)

/-- `LD VX, <byte>` (R81). -/
def execLdVxByte (x : Nibble) (kk : Byte) (s : State) : Host.Outcome State Fault Refusal :=
  .next (s.emit .ldVxByte .ld [.vreg x, .byte kk] false)

/-- `ADD VX, <byte>`. The block performs no addition (R82). -/
def execAddVxByte (x : Nibble) (kk : Byte) (s : State) : Host.Outcome State Fault Refusal :=
  .next (s.emit .addVxByte .add [.vreg x, .byte kk] false)

end Sys2Proof.Machine
end

