-- ==== Sys2Proof/Machine/Families9ToD.lean ====
section
/-! DEFINITION. The meanings of families 0x9 to 0xD: SNE, LD I, LD V0, RND, DRW (R93 to R97). Each instruction has its
decode semantics only (R6): its arm's one call of `Emit` (R67). No flag is written and no exception raised (R140). -/

namespace Sys2Proof.Machine

/-- `SNE VX, VY`, for every N (R93). -/
def execSneVxVy (x y : Nibble) (s : State) : Host.Outcome State Fault Refusal :=
  .next (s.emit .sneVxVy .sne [.vreg x, .vreg y] false)

/-- `LD I, <addr12>` (R94). -/
def execLdIAddr (nnn : Addr12) (s : State) : Host.Outcome State Fault Refusal :=
  .next (s.emit .ldIAddr .ld [.i, .addr12 nnn] false)

/-- `LD V0, <addr12>`: the register is the constant V0, not field X, and the mnemonic is the source's `LD` (D8, C6) (R95). -/
def execLdV0Addr (nnn : Addr12) (s : State) : Host.Outcome State Fault Refusal :=
  .next (s.emit .ldV0Addr .ld [.v0, .addr12 nnn] false)

/-- `RND VX, <byte>`. The block generates no random number (R96). -/
def execRndVxByte (x : Nibble) (kk : Byte) (s : State) : Host.Outcome State Fault Refusal :=
  .next (s.emit .rndVxByte .rnd [.vreg x, .byte kk] false)

/-- `DRW VX, VY, <nibble4>`, the only three-operand row (R97). -/
def execDrwVxVyN (x y n : Nibble) (s : State) : Host.Outcome State Fault Refusal :=
  .next (s.emit .drwVxVyN .drw [.vreg x, .vreg y, .nib4 n] false)

end Sys2Proof.Machine
end

