-- ==== Sys2Proof/Machine/Family0.lean ====
section
/-! DEFINITION. The meanings of family 0x0: CLS, RET, SYS (R73 to R75). Each instruction has its decode semantics only
(R6): its arm's one call of `Emit` (R67). No flag is written and no exception raised (R140). -/

namespace Sys2Proof.Machine

/-- `CLS`: no operands (R73). -/
def execCls (s : State) : Host.Outcome State Fault Refusal :=
  .next (s.emit .cls .cls [] false)

/-- `RET`: no operands. It only classifies: there is no return (R145) (R74). -/
def execRet (s : State) : Host.Outcome State Fault Refusal :=
  .next (s.emit .ret .ret [] false)

/-- `SYS <addr12>`. It is no system call: no row traps or needs a mode (R148) (R75). -/
def execSys (nnn : Addr12) (s : State) : Host.Outcome State Fault Refusal :=
  .next (s.emit .sys .sys [.addr12 nnn] false)

end Sys2Proof.Machine
end

