-- ==== Sys2Proof/Machine/Family8.lean ====
section
/-! DEFINITION. The meanings of family 0x8: the register-register forms (R83 to R91). Each instruction has its decode
semantics only (R6): its arm's one call of `Emit` (R67). No flag is written and no exception raised (R140). -/

namespace Sys2Proof.Machine

/-- `LD VX, VY` (R83). -/
def execLdVxVy (x y : Nibble) (s : State) : Host.Outcome State Fault Refusal :=
  .next (s.emit .ldVxVy .ld [.vreg x, .vreg y] false)

/-- `OR VX, VY` (R84). -/
def execOrVxVy (x y : Nibble) (s : State) : Host.Outcome State Fault Refusal :=
  .next (s.emit .orVxVy .or [.vreg x, .vreg y] false)

/-- `AND VX, VY` (R85). -/
def execAndVxVy (x y : Nibble) (s : State) : Host.Outcome State Fault Refusal :=
  .next (s.emit .andVxVy .and [.vreg x, .vreg y] false)

/-- `XOR VX, VY` (R86). -/
def execXorVxVy (x y : Nibble) (s : State) : Host.Outcome State Fault Refusal :=
  .next (s.emit .xorVxVy .xor [.vreg x, .vreg y] false)

/-- `ADD VX, VY` (R87). -/
def execAddVxVy (x y : Nibble) (s : State) : Host.Outcome State Fault Refusal :=
  .next (s.emit .addVxVy .add [.vreg x, .vreg y] false)

/-- `SUB VX, VY` (R88). -/
def execSubVxVy (x y : Nibble) (s : State) : Host.Outcome State Fault Refusal :=
  .next (s.emit .subVxVy .sub [.vreg x, .vreg y] false)

/-- `SHR VX` with VY as the braced optional operand: `opt2_o` is 1 (R60) (R89). -/
def execShrVxVy (x y : Nibble) (s : State) : Host.Outcome State Fault Refusal :=
  .next (s.emit .shrVxVy .shr [.vreg x, .vreg y] true)

/-- `SUBN VX, VY` (R90). -/
def execSubnVxVy (x y : Nibble) (s : State) : Host.Outcome State Fault Refusal :=
  .next (s.emit .subnVxVy .subn [.vreg x, .vreg y] false)

/-- `SHL VX` with VY as the braced optional operand: `opt2_o` is 1 (R60) (R91). -/
def execShlVxVy (x y : Nibble) (s : State) : Host.Outcome State Fault Refusal :=
  .next (s.emit .shlVxVy .shl [.vreg x, .vreg y] true)

end Sys2Proof.Machine
end

