-- ==== Sys2Proof/Machine/FamilyE.lean ====
section
/-! DEFINITION. The meanings of family 0xE: SKP, SKNP (R98, R99). Each instruction has its decode semantics only (R6):
its arm's one call of `Emit` (R67). No flag is written and no exception raised (R140). -/

namespace Sys2Proof.Machine

/-- `SKP VX` (R98). -/
def execSkpVx (x : Nibble) (s : State) : Host.Outcome State Fault Refusal :=
  .next (s.emit .skpVx .skp [.vreg x] false)

/-- `SKNP VX` (R99). -/
def execSknpVx (x : Nibble) (s : State) : Host.Outcome State Fault Refusal :=
  .next (s.emit .sknpVx .sknp [.vreg x] false)

end Sys2Proof.Machine
end

