-- ==== Sys2Proof/Machine/FamilyF.lean ====
section
/-! DEFINITION. The meanings of family 0xF: the timer, key, I, character, BCD and block-transfer forms (R101 to R109).
Each instruction has its decode semantics only (R6): its arm's one call of `Emit` (R67). No flag is written and no
exception raised (R140). -/

namespace Sys2Proof.Machine

/-- `LD VX, DT`. `DT` is a name; there is no timer (R149) (R101). -/
def execLdVxDt (x : Nibble) (s : State) : Host.Outcome State Fault Refusal :=
  .next (s.emit .ldVxDt .ld [.vreg x, .dt] false)

/-- `LD VX, _KEY_`. Nothing waits for a key (R142) (R102). -/
def execLdVxKey (x : Nibble) (s : State) : Host.Outcome State Fault Refusal :=
  .next (s.emit .ldVxKey .ld [.vreg x, .key] false)

/-- `LD DT, VX` (R103). -/
def execLdDtVx (x : Nibble) (s : State) : Host.Outcome State Fault Refusal :=
  .next (s.emit .ldDtVx .ld [.dt, .vreg x] false)

/-- `LD ST, VX` (R104). -/
def execLdStVx (x : Nibble) (s : State) : Host.Outcome State Fault Refusal :=
  .next (s.emit .ldStVx .ld [.st, .vreg x] false)

/-- `ADD I, VX` (R105). -/
def execAddIVx (x : Nibble) (s : State) : Host.Outcome State Fault Refusal :=
  .next (s.emit .addIVx .add [.i, .vreg x] false)

/-- `LD _CHAR_, VX` (R106). -/
def execLdCharVx (x : Nibble) (s : State) : Host.Outcome State Fault Refusal :=
  .next (s.emit .ldCharVx .ld [.char, .vreg x] false)

/-- `LD _BCD_, VX` (R107). -/
def execLdBcdVx (x : Nibble) (s : State) : Host.Outcome State Fault Refusal :=
  .next (s.emit .ldBcdVx .ld [.bcd, .vreg x] false)

/-- `LD [I], VX` (R108). -/
def execLdMiVx (x : Nibble) (s : State) : Host.Outcome State Fault Refusal :=
  .next (s.emit .ldMiVx .ld [.memI, .vreg x] false)

/-- `LD VX, [I]` (R109). -/
def execLdVxMi (x : Nibble) (s : State) : Host.Outcome State Fault Refusal :=
  .next (s.emit .ldVxMi .ld [.vreg x, .memI] false)

end Sys2Proof.Machine
end

