-- ==== Sys2Proof/Machine/Scan.lean ====
section
/-! DEFINITION. The evaluation of a word by the block, and the turns of the harness that use it (R128, R130). -/

namespace Sys2Proof.Machine

/-- The block evaluates the word put on its input: the fields are driven, the word selects its arm, and the arm writes
the classification ports (R64, R66, R67, R68). -/
def evalWord (w : Word) (s : State) : Host.Outcome State Fault Refusal := exec (decode w) (s.present w)

/-- One turn of the scan loop (R130): fetch, evaluate, record. -/
def scanStep (s : State) : Host.Outcome State Fault Refusal :=
  match s.fetch with
  | .notLoaded => .refused (.scanNotLoaded s.outcome)
  | .stop r => .next (s.endRun r)
  | .outside a => .fault (.fetchOutsideMem a)
  | .word w =>
    match evalWord w s with
    | .next t => .next t.record
    | .fault f => .fault f
    | .refused r => .refused r

/-- A step of a run that has ended (R139). After a failed load the scan is refused (R129, R156, U3; log entry 10); after
any other end nothing moves any more (log entry 11). -/
def endedStep (r : StopReason) (s : State) : Host.Outcome State Fault Refusal :=
  match r with
  | .loadFailed => .refused (.scanNotLoaded s.outcome)
  | .bound => .next s
  | .sentinel => .next s

/-- One step: the loader, one turn of the scan loop, one reading of a directly driven block, or a step of a run that has
ended. -/
def phaseStep (s : State) : Host.Outcome State Fault Refusal :=
  match s.phase with
  | .load => .next s.load
  | .scan => scanStep s
  | .ended r => endedStep r s
  | .driven => evalWord s.wordI s

end Sys2Proof.Machine
end

