-- ==== Sys2Proof/Machine/Step.lean ====
section
/-! DEFINITION. One step of the machine, and the placing of an instruction word where the next step decodes it. -/

namespace Sys2Proof.Machine

/-- One step (R37: load, then scan, strictly in that order; log entry 1). -/
def step (s : State) : Host.Outcome State Fault Refusal := phaseStep s

/-- `s` with the instruction whose bits are `w` (the first `nbits` of them; the rest zero) placed so that the next step
decodes it (log entry 8). -/
def State.withFetchWord (s : State) (nbits w : Nat) : State := s.placeWord (BitVec.ofNat 16 (w % 2 ^ nbits))

end Sys2Proof.Machine
end

