-- ==== Sys2Proof/Machine/Render.lean ====
section
/-! DEFINITION. The reference renderer (R116 to R127), which reads a `DecodeOut` record and is read by no rule of the
block: text of a result, pair form, listing line, and the dump of a finished run. A mnemonic or kind code that no decode
result holds is refused (R62, U4), the answer being `none`, where the text needs it; a code that the text does not need is
not looked at (DESIGN CHOICE; log entry 26). -/

namespace Sys2Proof.Machine

/-- The mnemonic text (R117). `RAW` is printed in the pair form only (R123, R124). -/
def mnemText : Mnem → String
  | .cls => "CLS"
  | .ret => "RET"
  | .sys => "SYS"
  | .jp => "JP"
  | .call => "CALL"
  | .se => "SE"
  | .sne => "SNE"
  | .ld => "LD"
  | .add => "ADD"
  | .or => "OR"
  | .and => "AND"
  | .xor => "XOR"
  | .sub => "SUB"
  | .shr => "SHR"
  | .subn => "SUBN"
  | .shl => "SHL"
  | .rnd => "RND"
  | .drw => "DRW"
  | .skp => "SKP"
  | .sknp => "SKNP"
  | .raw => "RAW"

/-- `0x` and lowercase hexadecimal without leading zeros; 0 is `0x0` (R120, R123, R125). -/
def hexText (n : Nat) : String := "0x" ++ String.ofList (Nat.toDigits 16 n)

/-- Decimal without leading zeros (R119). -/
def decText (n : Nat) : String := String.ofList (Nat.toDigits 10 n)

/-- The text of one operand (R119, R120, R121). An unused slot has no text. -/
def operandText (k : Kind) (v : Word) : Option String :=
  match k with
  | .none => Option.none
  | .vreg => some ("V" ++ decText v.toNat)
  | .addr12 => some (hexText v.toNat)
  | .byte => some (hexText v.toNat)
  | .nib4 => some (hexText v.toNat)
  | .dt => some "DT"
  | .st => some "ST"
  | .i => some "I"
  | .memI => some "[I]"
  | .key => some "_KEY_"
  | .char => some "_CHAR_"
  | .bcd => some "_BCD_"
  | .word16 => some (hexText v.toNat)

/-- The operand slots of a record as (kind code, value) pairs. -/
def DecodeOut.slots (d : DecodeOut) : List (BitVec 4 × Word) := [(d.k1O, d.v1O), (d.k2O, d.v2O), (d.k3O, d.v3O)]

/-- The text of a slot; a kind code 13 to 15 is refused (R62, U4). -/
def slotText (p : BitVec 4 × Word) : Option String := (kindOfCode p.1).bind fun k => operandText k p.2

/-- The texts of slots 1 to `nops_o`, or none if one has no text. -/
def operandTexts (d : DecodeOut) : Option (List String) := (d.slots.take d.nopsO.toNat).mapM slotText

/-- The character that opens the braced optional group (R122). -/
def openBrace : String := String.singleton (Char.ofNat 123)

/-- The character that closes the braced optional group (R122). -/
def closeBrace : String := String.singleton (Char.ofNat 125)

/-- Operand texts joined by a comma and one space (R118). -/
def joinTexts : List String → String
  | [] => ""
  | [a] => a
  | a :: b :: rest => a ++ ", " ++ joinTexts (b :: rest)

/-- `RenderRaw(d)` (R123). -/
def renderRaw (d : DecodeOut) : String := hexText d.v1O.toNat

/-- `Op(1)` and `Op(2)` in the braced form (R118, R122). -/
def bracedText (a b : String) : String := a ++ " " ++ openBrace ++ ", " ++ b ++ closeBrace

/-- The operand part of a line: the braced form where operand 2 is the optional one (R122), else the texts of slots 1 to
`nops_o`, joined (R118). -/
def operandPart (d : DecodeOut) : Option String :=
  if d.opt2O then (slotText (d.k1O, d.v1O)).bind fun a => (slotText (d.k2O, d.v2O)).map fun b => bracedText a b
  else (operandTexts d).map joinTexts

/-- `Render(d)` (R118). Only the codes that the text needs are read and can refuse a record: never `op_id_o` (R116), with
`raw_o` 1 neither `mnem_o` nor a kind, and else the kinds of slots 1 to `nops_o`, or of slots 1 and 2 in the braced form
(DESIGN CHOICE; log entry 26). -/
def render (d : DecodeOut) : Option String :=
  if d.rawO then some (renderRaw d)
  else if d.nopsO = 0 then (mnemOfCode d.mnemO).map mnemText
  else (mnemOfCode d.mnemO).bind fun m => (operandPart d).map fun ops => mnemText m ++ " " ++ ops

/-- The pair form (mnemonic, operand texts) of R124. It reads `mnem_o` and the slots up to `nops_o`, and can refuse a record
by these only (DESIGN CHOICE; log entry 26). -/
def pairForm (d : DecodeOut) : Option (String × List String) :=
  match mnemOfCode d.mnemO, operandTexts d with
  | some m, some ops => some (mnemText m, ops)
  | some _, none => none
  | none, _ => none

/-- A listing line (R125). -/
def listingLine (e : ListingEntry) : Option String :=
  (render e.result).map fun t => "[" ++ hexText e.offset ++ "]" ++ "    " ++ t

/-- The header line (R126). -/
def headerLine : String := "[OFFSET]   [INSTRUCTION]"

/-- The lines of a dump: the header line, one blank line, and one line per entry (R126). Whether an empty listing has the
header is a parameter (U12; log entries 17 and 21). -/
def dumpLines (l : List ListingEntry) : Option (List String) :=
  match l with
  | [] => some (if Config.headerWhenEmpty then [headerLine, ""] else [])
  | e :: es => ((e :: es).mapM listingLine).map fun ls => headerLine :: "" :: ls

/-- The base name of a path: what stands after its last slash (PRESUMED; log entry 17). -/
def baseNameChars : List Char → List Char
  | [] => []
  | c :: cs => if '/' ∈ c :: cs then baseNameChars cs else c :: cs

/-- A base name without its extension, the last period and what stands after it (PRESUMED; log entry 17). -/
def stemChars : List Char → List Char
  | [] => []
  | c :: cs => if '.' ∈ cs then c :: stemChars cs else if c = '.' then [] else c :: cs

/-- `DUMP_NAME(path)`: the input file's base name, with or without its extension (U11), and `_dump.txt` appended
(R127). -/
def dumpName (path : String) : String :=
  let base := baseNameChars path.toList
  String.ofList (if Config.keepsExtension then base else stemChars base) ++ "_dump.txt"

/-- Where a run is asked to send its listing (R127): the console, or a file with or without a name of its own. -/
inductive OutputMode where
  | console
  | file (name : Option String)
  deriving DecidableEq, Repr

/-- The one destination of a run's listing (R127). -/
inductive Destination where
  | console
  | file (name : String)
  deriving DecidableEq, Repr

/-- The destination; a file without a name has the default name of the input path (R127, U11). -/
def destination (path : String) : OutputMode → Destination
  | .console => .console
  | .file (some n) => .file n
  | .file Option.none => .file (dumpName path)

/-- What the sink gets from a run that has ended: its destination and lines; nothing where the load failed (R156) and
nothing before the end, since rendering comes after the scan (R37). -/
def dump (path : String) (mode : OutputMode) (s : State) : Option (Destination × List String) :=
  match s.phase with
  | .ended .bound => (dumpLines s.listing).map fun ls => (destination path mode, ls)
  | .ended .sentinel => (dumpLines s.listing).map fun ls => (destination path mode, ls)
  | .ended .loadFailed => none
  | .load => none
  | .scan => none
  | .driven => none

/-- The process exit code of a run: no contract is mandated (R156, U10; log entry 18), so any value. -/
def exitCode (s : State) : Nat := Config.exitCode s.outcome.code

end Sys2Proof.Machine
end

