-- ==== Sys2Proof/Safety.lean ====
section
/-! DEFINITION. What counts as a sound state of the machine: the invariant `State.Inv` that the rules of the memory and of
the scan imply for every state of a run, in the terms the claims use. -/

namespace Sys2Proof.Machine

/-- The offsets of the first `n` words of the program area: `BASE, BASE + 2, ...` (R139). -/
def scanOffset (k : Nat) : Nat := Config.base + 2 * k

/-- How many words the scan has passed when it stands at `off` (R136). -/
def wordsPassed (off : Nat) : Nat := (off - Config.base) / 2

/-- The listing that R130 gives for the first `n` words of memory: each offset with `Decode` of the word there. -/
def listingOf (m : Memory) (n : Nat) : List ListingEntry :=
  (List.range n).map fun k => ⟨scanOffset k, blockDecode (m.wordAt (scanOffset k))⟩

/-- The scan of R130 as a function: the entries from `off` on, stopping at the bound (R132) or the sentinel (R134), at
most `n` of them. -/
def scanListing (m : Memory) (len : Nat) : Nat → Nat → List ListingEntry
  | 0, _ => []
  | n + 1, off =>
    if Config.base + len ≤ off then []
    else if m.wordAt off = 0x0000#16 then []
    else ⟨off, blockDecode (m.wordAt off)⟩ :: scanListing m len n (off + 2)

/-- Memory as the loader leaves it: the input from `BASE` on, every other byte 0x00 (R28, R30). -/
def State.programImage (s : State) : Memory :=
  match s.input with
  | none => []
  | some p => Memory.writeBytes [] Config.base p

/-- The sound states. -/
structure State.Inv (s : State) : Prop where
  /-- Memory is in canonical form. -/
  memWf : s.mem.wf = true
  /-- Outside the loaded program memory reads as at allocation (R27, R28, R34). -/
  zeroOutside : ∀ a, a < Config.base ∨ Config.base + s.len ≤ a → s.mem.read a = 0x00#8
  /-- `len` is in 0..3584 (R22, R29). -/
  lenBound : s.len ≤ Config.maxLoad
  /-- `off` is at least `BASE` (R22). -/
  offLow : Config.base ≤ s.off
  /-- `off` is even (R22, R35). -/
  offEven : s.off % 2 = 0
  /-- `off` passes the end of the program by at most the one byte of an odd length (R132, R138). -/
  offHigh : s.off ≤ Config.base + s.len + 1
  /-- The listing is `Decode` of every word passed, in order (R130, R135, R137). -/
  listingEq : s.listing = listingOf s.programImage (wordsPassed s.off)
  /-- No word passed is the sentinel (R134). -/
  passedNonzero : ∀ k, k < wordsPassed s.off → s.programImage.wordAt (scanOffset k) ≠ 0x0000#16
  /-- Before a load has succeeded nothing is loaded or listed (R22, R29, R31). -/
  notLoaded : s.loaded = false → s.len = 0 ∧ s.off = Config.base
  /-- The loader has not run yet, and memory is as it was allocated (R28). -/
  atLoad : s.phase = .load → s.loaded = false ∧ s.outcome = .ok ∧ s.mem = []
  /-- The scan runs only after a successful load (R129), on what the loader has written (R30, R32). -/
  atScan : s.phase = .scan → s.loaded = true ∧ s.mem = s.programImage
  /-- A run that has ended holds no memory any more (R23). -/
  atEnd : ∀ r, s.phase = .ended r → s.mem = []
  /-- A run that ended by the bound stands at it (R132). -/
  atBound : s.phase = .ended .bound → s.loaded = true ∧ Config.base + s.len ≤ s.off
  /-- A run that ended by the sentinel stands on it (R134). -/
  atSentinel : s.phase = .ended .sentinel →
    s.loaded = true ∧ s.off < Config.base + s.len ∧ s.programImage.wordAt s.off = 0x0000#16
  /-- A failed load has reported an error (R156). -/
  atFailure : s.phase = .ended .loadFailed → s.loaded = false ∧ s.outcome ≠ .ok
  /-- What is loaded is the whole input (R30). -/
  loadedInput : s.loaded = true → ∃ p, s.input = some p ∧ s.len = p.length
  /-- A load that succeeded has outcome `OK` (R154). -/
  loadedOk : s.loaded = true → s.outcome = .ok
  /-- The output ports are `Decode` of the word on the input (R158). -/
  busSettled : s.out = blockDecode s.wordI

end Sys2Proof.Machine
end

