-- ==== Sys2Proof/Certificates/Slice0/Obligations.lean ====
section
/-! DEFINITION. The statements for the provers, made from the numbered rules of the spec. The helpers under
`Sys2Proof.Claims` only abbreviate; they write the codes of R55 to R57 as numbers, not through the model's own tables. -/

namespace Sys2Proof.Claims
open Sys2Proof.Machine

/-- One operand slot: (kind code of R56, value). -/
abbrev Slot := BitVec 4 × BitVec 16

/-- An unused slot (R58). -/
abbrev unused : Slot := (0, 0x0000)

/-- A register slot: kind code 1 and the index (R45, R56). -/
abbrev vreg (r : BitVec 4) : Slot := (1, r.setWidth 16)

/-- An address slot: kind code 2 and NNN (R45, R56). -/
abbrev addr (a : BitVec 12) : Slot := (2, a.setWidth 16)

/-- A byte slot: kind code 3 and KK (R45, R56). -/
abbrev byte (b : BitVec 8) : Slot := (3, b.setWidth 16)

/-- Field F of a word, bits 15:12 (R41). -/
abbrev F (w : Word) : BitVec 4 := w.extractLsb' 12 4
/-- Field X of a word, bits 11:8 (R41). -/
abbrev X (w : Word) : BitVec 4 := w.extractLsb' 8 4
/-- Field Y of a word, bits 7:4 (R41). -/
abbrev Y (w : Word) : BitVec 4 := w.extractLsb' 4 4
/-- Field N of a word, bits 3:0 (R41). -/
abbrev N (w : Word) : BitVec 4 := w.extractLsb' 0 4
/-- Field KK of a word, bits 7:0 (R41). -/
abbrev KK (w : Word) : BitVec 8 := w.extractLsb' 0 8
/-- Field NNN of a word, bits 11:0 (R41). -/
abbrev NNN (w : Word) : BitVec 12 := w.extractLsb' 0 12

/-- In EVERY state the instruction answers a next state (no fault, no refusal), in which exactly the classification ports
have changed, to these values: row code, mnemonic code, number of operands, the three slots, `opt2_o` and `raw_o`. All
other ports, memory, and every other field of the state are unchanged. -/
def Writes (i : Instr) (id : BitVec 6) (mnem : BitVec 5) (nops : BitVec 2) (s1 s2 s3 : Slot) (opt raw : Bool) : Prop :=
  ∀ s : State, exec i s = .next
    { s with out := { s.out with
        opIdO := id, mnemO := mnem, nopsO := nops, k1O := s1.1, v1O := s1.2, k2O := s2.1, v2O := s2.2,
        k3O := s3.1, v3O := s3.2, opt2O := opt, rawO := raw } }

/-- A row with two operands, neither braced nor raw. -/
abbrev Writes2 (i : Instr) (id : BitVec 6) (mnem : BitVec 5) (s1 s2 : Slot) : Prop :=
  Writes i id mnem 2 s1 s2 unused false false

/-- The sub-keys of the nine rows of family 0xF (R47). -/
def namedF : List (BitVec 8) := [0x07, 0x0A, 0x15, 0x18, 0x1E, 0x29, 0x33, 0x55, 0x65]

/-- The words of the fallback space, as R50 lists them. -/
def InFallbackSpace (w : Word) : Prop :=
  (F w = 0x8#4 ∧ N w ∈ ([0x8, 0x9, 0xA, 0xB, 0xC, 0xD, 0xF] : List (BitVec 4))) ∨
  (F w = 0xE#4 ∧ KK w ∉ ([0x9E, 0xA1] : List (BitVec 8))) ∨
  (F w = 0xF#4 ∧ KK w ∉ namedF)

/-- How many of the 4096 words of family `f` (those with `F == f`, one for each NNN) select row `r`. -/
def wordsOfRow (r : RowId) (f : BitVec 4) : Nat :=
  (List.range 4096).countP fun n => decide ((decode (packNNN f (BitVec.ofNat 12 n))).row = r)

/-- The text of a register operand: `V` and its index in decimal digits (R119). -/
def regText (r : BitVec 4) : String := "V" ++ String.ofList (Nat.toDigits 10 r.toNat)

/-- The text of a literal: `0x` and its value in lowercase hexadecimal digits (R120, R123). -/
def litText (n : Nat) : String := "0x" ++ String.ofList (Nat.toDigits 16 n)

/-- The word renders as the mnemonic, one space and one operand text (R118). -/
def Prints1 (w : Word) (m a : String) : Prop := render (blockDecode w) = some (m ++ " " ++ a)

/-- The word renders as the mnemonic, one space and two operand texts joined by a comma and one space (R118). -/
def Prints2 (w : Word) (m a b : String) : Prop := render (blockDecode w) = some (m ++ " " ++ (a ++ ", " ++ b))

/-- The word renders in the braced form: an opening brace (character 123) before the comma, a closing one (character 125)
at the end (R118, R122). -/
def PrintsBraced (w : Word) (m a b : String) : Prop :=
  render (blockDecode w) = some (m ++ " " ++ String.ofList (a.toList ++ [' ', Char.ofNat 123, ',', ' '] ++ b.toList ++ [Char.ofNat 125]))

end Sys2Proof.Claims

open Sys2Proof Sys2Proof.Machine Sys2Proof.Claims

/-! ### Encoding -/

/-- Decoding the encoding of a well-formed instruction gives it back, for every instruction and every operand value
(R44, R47, R70). -/
def Obligations.EncodedInstructionDecodesBack : Prop :=
  ∀ i : Instr, i.wellFormed = true →
    decode (encode i) = i ∧ decodeBytes (encodeBytes i) = .ok (i, [])

/-- Every word decodes to a well-formed instruction, whose encoding is the word but for the bits its row ignores, which
the encoder writes as zero (the model's choice, log entry 14). -/
def Obligations.DecodedWordEncodesBackUpToIgnoredBits : Prop :=
  ∀ w : Word, (decode w).wellFormed = true ∧ encode (decode w) = w &&& ~~~(decode w).ignoredBits

/-- Words written out bit by bit from the patterns of R73, R76, R81, R89, R91, R92, R94, R95, R97, R98, R102, R107. -/
def Obligations.WrittenOutWordsDecode : Prop :=
  decode 0b0000111111100000 = .cls ∧ decode 0b0001001000110100 = .jp 0x234 ∧
  decode 0b0110101000000111 = .ldVxByte 10 0x07 ∧ decode 0b1000101010110110 = .shrVxVy 10 11 ∧
  decode 0b1000101010111110 = .shlVxVy 10 11 ∧ decode 0b1000000000001000 = .raw 0x8008 ∧
  decode 0b1010001000101010 = .ldIAddr 0x22A ∧ decode 0b1011000100100011 = .ldV0Addr 0x123 ∧
  decode 0b1101101010111111 = .drwVxVyN 10 11 15 ∧ decode 0b1110000110011110 = .skpVx 1 ∧
  decode 0b1111010100001010 = .ldVxKey 5 ∧ decode 0b1111000000110011 = .ldBcdVx 0

/-- R44: read by mask, match and priority, the opcode table selects for every word the row that the multiplexer selects,
and within one priority at most one row matches a word. -/
def Obligations.OpcodeTableAgreesWithMultiplexer : Prop :=
  ∀ w : Word, tableRow w = some (decode w).row ∧
    ∀ p : Nat, (opcodeTable.filter fun r => r.hits w && r.priority == p).length ≤ 1

/-- R48: exactly the bits X of CLS and RET words and N of family-5 and family-9 words are ignored. Two words decode to the
same instruction exactly when they agree on all other bits, and then no output differs but the extractor's. -/
def Obligations.ExactlyTheIgnoredBitsDoNotMatter : Prop :=
  (∀ w : Word,
    (decode w).ignoredBits =
      if F w = 0x0#4 ∧ (KK w = 0xE0#8 ∨ KK w = 0xEE#8) then 0x0F00 else if F w = 0x5#4 ∨ F w = 0x9#4 then 0x000F else 0x0000) ∧
  (∀ w w' : Word,
    decode w = decode w' ↔ w &&& ~~~(decode w).ignoredBits = w' &&& ~~~(decode w).ignoredBits) ∧
  (∀ w w' : Word, decode w = decode w' →
    blockDecode w' =
      { blockDecode w with famO := F w', xO := X w', yO := Y w', nO := N w', kkO := KK w', nnnO := NNN w' })

/-- R49: no word of families 0x0 to 0x7 and 0x9 to 0xD reaches the fallback, and 0x0000 is SYS with address 0. -/
def Obligations.FullyPopulatedFamiliesNeverFallBack : Prop :=
  (∀ w : Word, F w ≠ 0x8#4 → F w ≠ 0xE#4 → F w ≠ 0xF#4 → (decode w).row ≠ .raw) ∧ decode 0x0000 = .sys 0x000

/-- R50: exactly the listed words select the fallback; there are 1792 in family 0x8, 4064 in 0xE and 3952 in 0xF, and
9808 in all. -/
def Obligations.FallbackSpaceIsExactlyTheReservedWords : Prop :=
  (∀ w : Word, (decode w).row = .raw ↔ InFallbackSpace w) ∧
  wordsOfRow .raw 0x8 = 1792 ∧ wordsOfRow .raw 0xE = 4064 ∧ wordsOfRow .raw 0xF = 3952 ∧
  ((List.range 16).map fun f => wordsOfRow .raw (BitVec.ofNat 4 f)).sum = 9808

/-- R51: there are 36 results, each selected by some word, and for every word exactly one of them is selected: the 36 row
codes are distinct and lie in 0 to 35, and the code that evaluating the word writes is that of one row only, which is the
row the word decodes to. -/
def Obligations.ThirtySixResultsEachSelected : Prop :=
  allRows.length = 36 ∧ allRows.Nodup ∧ (∀ r : RowId, r ∈ allRows ∧ ∃ w : Word, (decode w).row = r) ∧
  (∀ r r' : RowId, rowCode r = rowCode r' → r = r') ∧ (∀ r : RowId, (rowCode r).toNat < 36) ∧
  ∀ (w : Word) (s t : State), evalWord w s = .next t →
    (∃! r : RowId, rowCode r = t.out.opIdO) ∧ rowCode (decode w).row = t.out.opIdO

/-! ### What each instruction outputs (the block's decode semantics, R6) -/

/-- R73, R74, R75: which words of family 0x0 are CLS, RET and SYS (16, 16 and 4064 words), and what each writes to the
output bus. -/
def Obligations.FamilyZeroOutputs : Prop :=
  (∀ w : Word, F w = 0x0#4 →
    (KK w = 0xE0#8 → decode w = .cls) ∧ Writes .cls 0 0 0 unused unused unused false false ∧
    (KK w = 0xEE#8 → decode w = .ret) ∧ Writes .ret 1 1 0 unused unused unused false false ∧
    (KK w ≠ 0xE0#8 → KK w ≠ 0xEE#8 → decode w = .sys (NNN w)) ∧
    Writes (.sys (NNN w)) 2 2 1 (addr (NNN w)) unused unused false false) ∧
  wordsOfRow .cls 0x0 = 16 ∧ wordsOfRow .ret 0x0 = 16 ∧ wordsOfRow .sys 0x0 = 4064

/-- R76, R77: JP and CALL output NNN as their one operand, for every word of families 0x1 and 0x2. -/
def Obligations.JumpAndCallOutputs : Prop :=
  ∀ w : Word,
    (F w = 0x1#4 → decode w = .jp (NNN w) ∧ Writes (.jp (NNN w)) 3 3 1 (addr (NNN w)) unused unused false false) ∧
    (F w = 0x2#4 → decode w = .call (NNN w) ∧ Writes (.call (NNN w)) 4 4 1 (addr (NNN w)) unused unused false false)

/-- R78, R79, R81, R82, R96: the rows with a register and a byte output X and KK. -/
def Obligations.RegisterByteRowsOutputs : Prop :=
  ∀ w : Word,
    (F w = 0x3#4 → decode w = .seVxByte (X w) (KK w) ∧ Writes2 (.seVxByte (X w) (KK w)) 5 5 (vreg (X w)) (byte (KK w))) ∧
    (F w = 0x4#4 → decode w = .sneVxByte (X w) (KK w) ∧ Writes2 (.sneVxByte (X w) (KK w)) 6 6 (vreg (X w)) (byte (KK w))) ∧
    (F w = 0x6#4 → decode w = .ldVxByte (X w) (KK w) ∧ Writes2 (.ldVxByte (X w) (KK w)) 8 7 (vreg (X w)) (byte (KK w))) ∧
    (F w = 0x7#4 → decode w = .addVxByte (X w) (KK w) ∧ Writes2 (.addVxByte (X w) (KK w)) 9 8 (vreg (X w)) (byte (KK w))) ∧
    (F w = 0xC#4 → decode w = .rndVxByte (X w) (KK w) ∧ Writes2 (.rndVxByte (X w) (KK w)) 22 16 (vreg (X w)) (byte (KK w)))

/-- R80, R93: SE VX, VY and SNE VX, VY output X and Y, for every N. -/
def Obligations.SkipOnRegistersOutputs : Prop :=
  ∀ w : Word,
    (F w = 0x5#4 → decode w = .seVxVy (X w) (Y w) ∧ Writes2 (.seVxVy (X w) (Y w)) 7 5 (vreg (X w)) (vreg (Y w))) ∧
    (F w = 0x9#4 → decode w = .sneVxVy (X w) (Y w) ∧ Writes2 (.sneVxVy (X w) (Y w)) 19 6 (vreg (X w)) (vreg (Y w)))

/-- R83 to R88 and R90: the seven plain register-register rows of family 0x8. -/
def Obligations.FamilyEightPlainRowsOutputs : Prop :=
  ∀ w : Word, F w = 0x8#4 →
    (N w = 0x0#4 → decode w = .ldVxVy (X w) (Y w) ∧ Writes2 (.ldVxVy (X w) (Y w)) 10 7 (vreg (X w)) (vreg (Y w))) ∧
    (N w = 0x1#4 → decode w = .orVxVy (X w) (Y w) ∧ Writes2 (.orVxVy (X w) (Y w)) 11 9 (vreg (X w)) (vreg (Y w))) ∧
    (N w = 0x2#4 → decode w = .andVxVy (X w) (Y w) ∧ Writes2 (.andVxVy (X w) (Y w)) 12 10 (vreg (X w)) (vreg (Y w))) ∧
    (N w = 0x3#4 → decode w = .xorVxVy (X w) (Y w) ∧ Writes2 (.xorVxVy (X w) (Y w)) 13 11 (vreg (X w)) (vreg (Y w))) ∧
    (N w = 0x4#4 → decode w = .addVxVy (X w) (Y w) ∧ Writes2 (.addVxVy (X w) (Y w)) 14 8 (vreg (X w)) (vreg (Y w))) ∧
    (N w = 0x5#4 → decode w = .subVxVy (X w) (Y w) ∧ Writes2 (.subVxVy (X w) (Y w)) 15 12 (vreg (X w)) (vreg (Y w))) ∧
    (N w = 0x7#4 → decode w = .subnVxVy (X w) (Y w) ∧ Writes2 (.subnVxVy (X w) (Y w)) 17 14 (vreg (X w)) (vreg (Y w)))

/-- R89, R91: SHR and SHL output X and Y and mark operand 2 as the braced optional operand. -/
def Obligations.ShiftRowsOutputsWithBracedOperand : Prop :=
  ∀ w : Word, F w = 0x8#4 →
    (N w = 0x6#4 → decode w = .shrVxVy (X w) (Y w) ∧
      Writes (.shrVxVy (X w) (Y w)) 16 13 2 (vreg (X w)) (vreg (Y w)) unused true false) ∧
    (N w = 0xE#4 → decode w = .shlVxVy (X w) (Y w) ∧
      Writes (.shlVxVy (X w) (Y w)) 18 15 2 (vreg (X w)) (vreg (Y w)) unused true false)

/-- R94, R95: LD I outputs the symbol I and NNN; LD V0 outputs the constant register V0, not field X, and NNN. -/
def Obligations.AddressLoadRowsOutputs : Prop :=
  ∀ w : Word,
    (F w = 0xA#4 → decode w = .ldIAddr (NNN w) ∧ Writes2 (.ldIAddr (NNN w)) 20 7 (7, 0x0000) (addr (NNN w))) ∧
    (F w = 0xB#4 → decode w = .ldV0Addr (NNN w) ∧ Writes2 (.ldV0Addr (NNN w)) 21 7 (1, 0x0000) (addr (NNN w)))

/-- R97: DRW outputs three operands X, Y and N. -/
def Obligations.DrawOutputsThreeOperands : Prop :=
  ∀ w : Word, F w = 0xD#4 →
    decode w = .drwVxVyN (X w) (Y w) (N w) ∧
    Writes (.drwVxVyN (X w) (Y w) (N w)) 23 17 3 (vreg (X w)) (vreg (Y w)) (4, (N w).setWidth 16) false false

/-- R98, R99: SKP and SKNP output X. -/
def Obligations.SkipOnKeyOutputs : Prop :=
  ∀ w : Word, F w = 0xE#4 →
    (KK w = 0x9E#8 → decode w = .skpVx (X w) ∧ Writes (.skpVx (X w)) 24 18 1 (vreg (X w)) unused unused false false) ∧
    (KK w = 0xA1#8 → decode w = .sknpVx (X w) ∧ Writes (.sknpVx (X w)) 25 19 1 (vreg (X w)) unused unused false false)

/-- R101 to R109: the nine rows of family 0xF, each with X and a symbolic operand in the row's order. -/
def Obligations.FamilyFifteenRowsOutputs : Prop :=
  ∀ w : Word, F w = 0xF#4 →
    (KK w = 0x07#8 → decode w = .ldVxDt (X w) ∧ Writes2 (.ldVxDt (X w)) 26 7 (vreg (X w)) (5, 0x0000)) ∧
    (KK w = 0x0A#8 → decode w = .ldVxKey (X w) ∧ Writes2 (.ldVxKey (X w)) 27 7 (vreg (X w)) (9, 0x0000)) ∧
    (KK w = 0x15#8 → decode w = .ldDtVx (X w) ∧ Writes2 (.ldDtVx (X w)) 28 7 (5, 0x0000) (vreg (X w))) ∧
    (KK w = 0x18#8 → decode w = .ldStVx (X w) ∧ Writes2 (.ldStVx (X w)) 29 7 (6, 0x0000) (vreg (X w))) ∧
    (KK w = 0x1E#8 → decode w = .addIVx (X w) ∧ Writes2 (.addIVx (X w)) 30 8 (7, 0x0000) (vreg (X w))) ∧
    (KK w = 0x29#8 → decode w = .ldCharVx (X w) ∧ Writes2 (.ldCharVx (X w)) 31 7 (10, 0x0000) (vreg (X w))) ∧
    (KK w = 0x33#8 → decode w = .ldBcdVx (X w) ∧ Writes2 (.ldBcdVx (X w)) 32 7 (11, 0x0000) (vreg (X w))) ∧
    (KK w = 0x55#8 → decode w = .ldMiVx (X w) ∧ Writes2 (.ldMiVx (X w)) 33 7 (8, 0x0000) (vreg (X w))) ∧
    (KK w = 0x65#8 → decode w = .ldVxMi (X w) ∧ Writes2 (.ldVxMi (X w)) 34 7 (vreg (X w)) (8, 0x0000))

/-- R92, R100, R110, R111: every word that families 0x8, 0xE and 0xF do not name falls back, and the fallback outputs the
whole word with `raw_o` set. -/
def Obligations.FallbackOutputsTheWholeWord : Prop :=
  ∀ w : Word,
    (F w = 0x8#4 → N w ∈ ([0x8, 0x9, 0xA, 0xB, 0xC, 0xD, 0xF] : List (BitVec 4)) → decode w = .raw w) ∧
    (F w = 0xE#4 → KK w ≠ 0x9E#8 → KK w ≠ 0xA1#8 → decode w = .raw w) ∧
    (F w = 0xF#4 → KK w ∉ namedF → decode w = .raw w) ∧
    Writes (.raw w) 35 20 1 (12, w) unused unused false true

/-! ### The output bus -/

/-- R64, R65, R66: whatever word is evaluated in whatever state, the field ports and the secondary-selector ports are
driven from the word, for fallback words as for any other. -/
def Obligations.ExtractorDrivesEveryFieldPort : Prop :=
  ∀ (w : Word) (s : State), ∃ t, evalWord w s = .next t ∧ t.wordI = w ∧
    t.out.famO = F w ∧ t.out.xO = X w ∧ t.out.yO = Y w ∧ t.out.nO = N w ∧ t.out.kkO = KK w ∧ t.out.nnnO = NNN w ∧
    (F w = 0x0#4 ∨ F w = 0xE#4 ∨ F w = 0xF#4 → t.out.hasSubO = true ∧ t.out.subO = KK w) ∧
    (F w = 0x8#4 → t.out.hasSubO = true ∧ t.out.subO = (N w).setWidth 8) ∧
    (F w ≠ 0x0#4 → F w ≠ 0x8#4 → F w ≠ 0xE#4 → F w ≠ 0xF#4 → t.out.hasSubO = false ∧ t.out.subO = 0x00)

/-- R67: Emit writes the codes, the count, the three slots and the two flags, and leaves the extractor and
secondary-selector ports as they are; and every instruction is one call of Emit with at most three operands. -/
def Obligations.EmitWritesTheClassificationPorts : Prop :=
  (∀ (i : Instr) (s : State), ∃ (m : Mnem) (ops : List Operand) (opt : Bool), ops.length ≤ 3 ∧
    exec i s = .next { s with out := emit i.row m ops opt s.out }) ∧
  ∀ (id : RowId) (m : Mnem) (ops : List Operand) (opt : Bool) (d : DecodeOut), ops.length ≤ 3 →
    let e := emit id m ops opt d
    e.opIdO = rowCode id ∧ e.mnemO = mnemCode m ∧ e.nopsO.toNat = ops.length ∧ e.opt2O = opt ∧
    (e.rawO = true ↔ rowCode id = 35) ∧
    (∀ k : Nat, k < 3 → e.slots[k]? =
      some (match ops[k]? with | some o => (kindCode o.kind, o.value) | none => ((0 : BitVec 4), (0x0000 : Word)))) ∧
    e.famO = d.famO ∧ e.xO = d.xO ∧ e.yO = d.yO ∧ e.nO = d.nO ∧ e.kkO = d.kkO ∧ e.nnnO = d.nnnO ∧
    e.hasSubO = d.hasSubO ∧ e.subO = d.subO

/-- R58, R59: after any instruction the slots are filled from slot 1 with no gap, an unused slot and a valueless kind
(codes 5 to 11) carry 0x0000, and `nops_o` is the number of slots in use. -/
def Obligations.SlotsFilledWithoutGapAndCounted : Prop :=
  ∀ (i : Instr) (s t : State), exec i s = .next t →
    t.out.nopsO.toNat = (t.out.slots.filter fun p => p.1 != 0).length ∧
    (∀ k : Nat, k < 3 → ∃ p : Slot, t.out.slots[k]? = some p ∧
      (t.out.nopsO.toNat ≤ k → p = unused) ∧ (k < t.out.nopsO.toNat → p.1 ≠ 0) ∧
      (5 ≤ p.1.toNat → p.1.toNat ≤ 11 → p.2 = 0x0000))

/-- R60, R61: `opt2_o` is 1 after SHR and SHL and no other instruction; `raw_o` is 1 exactly when the row code is 35. -/
def Obligations.OptAndRawFlags : Prop :=
  ∀ (i : Instr) (s t : State), exec i s = .next t →
    (t.out.opt2O = true ↔ i.row = .shrVxVy ∨ i.row = .shlVxVy) ∧ (t.out.rawO = true ↔ t.out.opIdO = 35)

/-- R62: no instruction writes a row code from 36, a mnemonic code from 21 or a kind code from 13 on, and a consumer
refuses exactly those codes. -/
def Obligations.NoCodeWithoutMeaningIsProduced : Prop :=
  (∀ (i : Instr) (s t : State), exec i s = .next t →
    t.out.opIdO.toNat < 36 ∧ t.out.mnemO.toNat < 21 ∧
    t.out.k1O.toNat < 13 ∧ t.out.k2O.toNat < 13 ∧ t.out.k3O.toNat < 13 ∧
    rowOfCode t.out.opIdO = some i.row) ∧
  (∀ c : BitVec 6, rowOfCode c = none ↔ 36 ≤ c.toNat) ∧
  (∀ c : BitVec 5, mnemOfCode c = none ↔ 21 ≤ c.toNat) ∧
  (∀ c : BitVec 4, kindOfCode c = none ↔ 13 ≤ c.toNat)

/-- R71: words with the same F and, in families 0x0, 0x8, 0xE and 0xF, the same secondary selector select the same row;
operand bits never change which arm is taken. -/
def Obligations.SelectionDependsOnFamilyAndSubKeyOnly : Prop :=
  ∀ w w' : Word, F w = F w' →
    (F w = 0x0#4 ∨ F w = 0xE#4 ∨ F w = 0xF#4 → KK w = KK w') → (F w = 0x8#4 → N w = N w') →
    (decode w).row = (decode w').row

/-- R16: two presentations of the same word, in any two states, give bit-identical outputs. -/
def Obligations.SameWordGivesSameOutputs : Prop :=
  ∀ (w : Word) (s s' t t' : State), evalWord w s = .next t → evalWord w s' = .next t' → t.out = t'.out

/-- R114: the input word is recoverable from the output: from operand 1 for a fallback word, from the extractor ports for
every word. -/
def Obligations.InputWordIsRecoverable : Prop :=
  ∀ (w : Word) (s t : State), evalWord w s = .next t →
    (t.out.rawO = true → t.out.v1O = w) ∧ (t.out.famO.setWidth 16 <<< 12) ||| t.out.nnnO.setWidth 16 = w

/-- R68, R69, R72: the machine's evaluation of a word (extractor, decoder to an instruction, the instruction's own meaning)
drives exactly the ports that the spec's `Decode(w)` gives, in every state, and changes nothing but the two wires. -/
def Obligations.EvaluationRefinesDecode : Prop :=
  ∀ (w : Word) (s : State), evalWord w s = .next { s with wordI := w, out := blockDecode w }

/-- R140, R112: no instruction faults or is refused, in any state; each writes its own row's code. -/
def Obligations.NoInstructionRaisesAnException : Prop :=
  ∀ (i : Instr) (s : State), ∃ t, exec i s = .next t ∧ t.out.opIdO = rowCode i.row

/-- The frame of all 36 instructions (R6, R15, R67): cls, ret, sys, jp, call, seVxByte, sneVxByte, seVxVy, ldVxByte,
addVxByte, ldVxVy, orVxVy, andVxVy, xorVxVy, addVxVy, subVxVy, shrVxVy, subnVxVy, shlVxVy, sneVxVy, ldIAddr, ldV0Addr,
rndVxByte, drwVxVyN, skpVx, sknpVx, ldVxDt, ldVxKey, ldDtVx, ldStVx, addIVx, ldCharVx, ldBcdVx, ldMiVx, ldVxMi and raw
store nothing: every byte of memory reads as before, the harness's whole state and the input wire are unchanged, and so are
the extractor and secondary-selector ports. Only the classification ports may change. -/
def Obligations.InstructionsChangeOnlyClassificationPorts : Prop :=
  ∀ (i : Instr) (s t : State), exec i s = .next t →
    (∀ a : Nat, t.mem.read a = s.mem.read a) ∧ t.mem = s.mem ∧ t.wordI = s.wordI ∧ t.len = s.len ∧
    t.loaded = s.loaded ∧ t.off = s.off ∧ t.listing = s.listing ∧ t.outcome = s.outcome ∧ t.input = s.input ∧
    t.phase = s.phase ∧
    t.out.famO = s.out.famO ∧ t.out.xO = s.out.xO ∧ t.out.yO = s.out.yO ∧ t.out.nO = s.out.nO ∧
    t.out.kkO = s.out.kkO ∧ t.out.nnnO = s.out.nnnO ∧ t.out.hasSubO = s.out.hasSubO ∧ t.out.subO = s.out.subO

/-! ### Memory -/

/-- R33: a word is two consecutive bytes, the byte at the lower address being the more significant. -/
def Obligations.WordsAreBigEndian : Prop :=
  ∀ (m : Memory) (a : Nat), (m.wordAt a).extractLsb' 8 8 = m.read a ∧ (m.wordAt a).extractLsb' 0 8 = m.read (a + 1)

/-- A write to memory in canonical form is read back, leaves every other address alone and keeps the form (R10, R26). -/
def Obligations.MemoryWriteIsReadBack : Prop :=
  ∀ (m : Memory) (a : Nat) (v : Byte), m.wf = true → a < 4096 →
    (m.write a v).read a = v ∧ (∀ b : Nat, b ≠ a → (m.write a v).read b = m.read b) ∧ (m.write a v).wf = true

/-! ### The loader -/

/-- R30, R131: a readable input that fits is written in order from 0x200 on and nowhere else, `len` and `loaded` are set,
and the scan starts at 0x200 with an empty listing. The loader is the only writer: no step from any other phase writes a
byte (the discarding of memory by a step that ends the run, R23, is the statement MemoryIsDiscardedAtRunEnd). -/
def Obligations.LoadWritesTheInputAtBase : Prop :=
  (∀ s t : State, s.phase ≠ .load → step s = .next t → (s.phase = .scan → t.phase = .scan) →
    ∀ a : Nat, t.mem.read a = s.mem.read a) ∧
  ∀ (s : State) (p : List Byte), s.phase = .load → s.mem.wf = true → s.input = some p → p.length ≤ 3584 →
    ∃ t, step s = .next t ∧ (∀ (k : Nat) (h : k < p.length), t.mem.read (0x200 + k) = p[k]) ∧
      (∀ a : Nat, a < 0x200 ∨ 0x200 + p.length ≤ a → t.mem.read a = s.mem.read a) ∧
      t.len = p.length ∧ t.loaded = true ∧ t.off = 0x200 ∧ t.listing = [] ∧ t.phase = .scan ∧
      t.outcome = s.outcome ∧ t.input = s.input

/-- R29: an input is rejected exactly when it is longer than 3584 bytes; then `CAPACITY_EXCEEDED` (code 2) is raised, no
byte is written (memory, 0x00 throughout when the loader runs, is 0x00 throughout after it), and the scan does not run.
The model's own: a failed load is a next state (log entry 9), the step after it is refused as `scanNotLoaded` with the
outcome (log entry 10), what a failed load leaves as it was (log entry 20), and that discarded memory reads as 0x00 (log
entry 11). -/
def Obligations.OversizedInputIsRejected : Prop :=
  ∀ (s : State) (p : List Byte), s.phase = .load → s.input = some p →
    (3584 < p.length → ∃ t, step s = .next t ∧ t.outcome = .capacityExceeded ∧ t.phase = .ended .loadFailed ∧
      (∀ a : Nat, t.mem.read a = 0x00#8) ∧ t.len = s.len ∧ t.loaded = s.loaded ∧ t.listing = s.listing ∧
      step t = .refused (.scanNotLoaded .capacityExceeded)) ∧
    (p.length ≤ 3584 → ∃ t, step s = .next t ∧ t.phase = .scan ∧ t.loaded = true ∧ t.outcome = s.outcome) ∧
    HarnessOutcome.code .capacityExceeded = 2

/-- R31, R155: an unreadable input, whose length is unknown, raises `INPUT_UNAVAILABLE` (code 1) and no other outcome;
`loaded` stays as it was, and the scan does not run. The model's own: a failed load is a next state (log entry 9), the
step after it is refused as `scanNotLoaded` with the outcome (log entry 10), and the listing stays (log entry 20). -/
def Obligations.UnreadableInputIsReported : Prop :=
  ∀ s : State, s.phase = .load → s.input = none →
    (∃ t, step s = .next t ∧ t.outcome = .inputUnavailable ∧ t.phase = .ended .loadFailed ∧ t.loaded = s.loaded ∧
      t.listing = s.listing ∧ step t = .refused (.scanNotLoaded .inputUnavailable)) ∧
    HarnessOutcome.code .inputUnavailable = 1

/-- R129: the scan runs only if `loaded` is true, else the step is refused. After a failed load it does not run: in every
sound state the step is refused, the listing is empty, and the dump has no output (R156). That the refusal is
`scanNotLoaded` and carries the outcome is the model's choice (log entry 10; U3 says "refuse"). -/
def Obligations.NoScanAfterFailedLoad : Prop :=
  (∀ s : State, s.phase = .scan → s.loaded = false → step s = .refused (.scanNotLoaded s.outcome)) ∧
  ∀ s : State, s.Inv → s.phase = .ended .loadFailed →
    step s = .refused (.scanNotLoaded s.outcome) ∧ s.loaded = false ∧ s.listing = [] ∧
    ∀ path mode, dump path mode s = none

/-! ### The scan -/

/-- A step runs the decoded instruction: where the scan is about to run inside the loaded program and the two bytes at
`off` decode to `i` and are not both zero, the step is `exec i` on the state with the word put on `word_i`, and after it the
entry (off, output ports) is appended and `off` advances by 2; where the block is driven directly, the step is `exec` of
the word on `word_i`, and nothing else (R25, R128, R130; that phase is the model's choice, log entry 7). -/
def Obligations.StepRunsTheDecodedInstruction : Prop :=
  (∀ (s : State) (i : Instr), s.phase = .scan → s.loaded = true → s.off < 0x200 + s.len → s.off + 1 < 4096 →
    (s.mem.read s.off ≠ 0x00#8 ∨ s.mem.read (s.off + 1) ≠ 0x00#8) →
    decodeBytes [s.mem.read s.off, s.mem.read (s.off + 1)] = .ok (i, []) →
    i.wellFormed = true ∧
    step s =
      match exec i (s.present (s.mem.wordAt s.off)) with
      | .next t => .next { t with listing := t.listing ++ [⟨t.off, t.out⟩], off := t.off + 2 }
      | .fault f => .fault f
      | .refused r => .refused r) ∧
  (∀ s : State, s.phase = .driven → step s = exec (decode s.wordI) (s.present s.wordI))

/-- R133, R135, R136: a scan step on a nonzero word inside the loaded program appends exactly the entry
(off, Decode(word at off)) and advances `off` by exactly 2; memory and the rest of the harness state stay. -/
def Obligations.ScanStepAppendsTheDecodedWord : Prop :=
  ∀ s : State, s.phase = .scan → s.loaded = true → s.off < 0x200 + s.len → s.off + 1 < 4096 →
    s.mem.wordAt s.off ≠ 0x0000#16 →
    step s = .next
      { s with
        wordI := s.mem.wordAt s.off, out := blockDecode (s.mem.wordAt s.off),
        listing := s.listing ++ [⟨s.off, blockDecode (s.mem.wordAt s.off)⟩], off := s.off + 2 }

/-- R132: when `off >= BASE + len` the scan stops before reading: the run ends, and nothing is added to the listing. -/
def Obligations.ScanStopsAtTheBound : Prop :=
  ∀ s : State, s.phase = .scan → s.loaded = true → 0x200 + s.len ≤ s.off →
    ∃ t, step s = .next t ∧ t.phase = .ended .bound ∧ t.listing = s.listing ∧ t.outcome = s.outcome

/-- R134: if the word at `off` is 0x0000 the scan stops and that offset is not emitted: the run ends, and nothing is added
to the listing. No turn of the scan puts 0x0000 on the block's input. -/
def Obligations.ScanStopsAtTheSentinel : Prop :=
  (∀ s t : State, s.phase = .scan → step s = .next t → t.wordI = s.wordI ∨ t.wordI ≠ 0x0000) ∧
  ∀ s : State, s.phase = .scan → s.loaded = true → s.off < 0x200 + s.len → s.off + 1 < 4096 →
    s.mem.wordAt s.off = 0x0000#16 →
    ∃ t, step s = .next t ∧ t.phase = .ended .sentinel ∧ t.listing = s.listing ∧ t.outcome = s.outcome

/-- R32: after the load memory is read-only during the run: no step from any other phase, but one that ends the run, writes
a byte of it or changes `len` or `loaded`; and no step after the load changes `outcome` or the input. -/
def Obligations.MemoryIsReadOnlyAfterLoad : Prop :=
  ∀ s t : State, s.phase ≠ .load → step s = .next t →
    ((s.phase = .scan → t.phase = .scan) →
      (∀ a : Nat, t.mem.read a = s.mem.read a) ∧ t.mem = s.mem ∧ t.len = s.len ∧ t.loaded = s.loaded) ∧
    t.outcome = s.outcome ∧ t.input = s.input

/-- R137: the scan is linear. A step after the load leaves `off` and the listing as they are, or advances `off` by 2 and
appends one entry at the old `off`; whatever was decoded, it never goes elsewhere and never drops or reorders an entry. -/
def Obligations.ScanIsLinear : Prop :=
  ∀ s t : State, s.phase ≠ .load → step s = .next t →
    (t.off = s.off ∧ t.listing = s.listing) ∨
    (t.off = s.off + 2 ∧ s.phase = .scan ∧ t.phase = .scan ∧
      ∃ d : DecodeOut, t.listing = s.listing ++ [⟨s.off, d⟩])

/-- The phases of a run come strictly in order (R37, R139): the loader is followed by the scan or by a failed end, the scan
by itself or by its end, an end by nothing else; there is nothing to render before the end of the scan. The phases, that
an ended run answers the same state, and that the wires, `len`, `loaded` and `off` stay when a run ends, are the model's
choices (log entries 6, 7, 11, 15 and 20). -/
def Obligations.LoadThenScanThenEnd : Prop :=
  ∀ s t : State, step s = .next t →
    (s.phase = .load → t.phase = .scan ∨ t.phase = .ended .loadFailed) ∧
    (s.phase = .scan → t.phase = .scan ∨ t.phase = .ended .bound ∨ t.phase = .ended .sentinel) ∧
    (∀ r : StopReason, s.phase = .ended r → t = s) ∧ (s.phase = .driven → t.phase = .driven) ∧
    (∀ r : StopReason, t.phase = .ended r →
      t.wordI = s.wordI ∧ t.out = s.out ∧ t.len = s.len ∧ t.loaded = s.loaded ∧ t.off = s.off ∧ t.listing = s.listing) ∧
    (∀ path mode, s.phase = .load ∨ s.phase = .scan → dump path mode s = none)

/-- R138: when `len` is odd, the last word scanned has its high byte from the program and a zero low byte, and it is
decoded like any other word unless it is 0x0000. -/
def Obligations.OddTrailingByteIsScannedWithZeroLowByte : Prop :=
  ∀ s : State, s.Inv → s.phase = .scan → s.len % 2 = 1 → s.off + 1 = 0x200 + s.len →
    s.mem.wordAt s.off = (s.mem.read s.off).setWidth 16 <<< 8 ∧
    (s.mem.read s.off ≠ 0x00#8 → ∃ t, step s = .next t ∧ t.listing = s.listing ++ [⟨s.off, blockDecode (s.mem.wordAt s.off)⟩]) ∧
    (s.mem.read s.off = 0x00#8 → ∃ t, step s = .next t ∧ t.phase = .ended .sentinel ∧ t.listing = s.listing)

/-- In every sound state the listing's offsets are 0x200, 0x202, ... strictly rising by 2, and it holds at most
ceil(len / 2) entries (R139). -/
def Obligations.ListingOffsetsAndSize : Prop :=
  ∀ s : State, s.Inv →
    (∀ (k : Nat) (h : k < s.listing.length), (s.listing[k]).offset = 0x200 + 2 * k) ∧
    s.listing.length ≤ (s.len + 1) / 2

/-! ### The whole machine -/

/-- What reset, and the start of any run, leaves of the items the spec gives a value for (R22, R24, R28): every byte of
memory 0x00, nothing loaded, `off` at 0x200, an empty listing, outcome `OK` (code 0). -/
def Obligations.ResetLeavesInitialHarnessState : Prop :=
  (∀ a : Nat, State.reset.mem.read a = 0x00#8) ∧ State.reset.loaded = false ∧ State.reset.off = 0x200 ∧
  State.reset.listing = [] ∧ State.reset.outcome = .ok ∧ HarnessOutcome.code .ok = 0 ∧
  ∀ (s : State) (input : Option (List Byte)),
    (∀ a : Nat, (s.startRun input).mem.read a = 0x00#8) ∧ (s.startRun input).loaded = false ∧
    (s.startRun input).off = 0x200 ∧ (s.startRun input).listing = [] ∧ (s.startRun input).outcome = .ok

/-- The invariant holds at reset. It rests also on the reset values the model chose (log entries 3, 4 and 6). -/
def Obligations.InvariantHoldsAtReset : Prop := State.reset.Inv

/-- Every step keeps the invariant: memory canonical, in bounds and zero outside the program, exactly the loaded input
while the scan runs and discarded at the end of the run, `off` even and inside its range, the listing exactly `Decode` of
every word of the input passed, no sentinel passed, and the output ports settled. -/
def Obligations.StepKeepsTheInvariant : Prop :=
  ∀ s t : State, s.Inv → step s = .next t → t.Inv

/-- R36: no harness read leaves the address space: in a sound state the scan's `off` is even and, while a word is
left to read, at most 0xFFE, and a step never faults (a read outside memory is the model's only fault, log entry 12).
While the loader or the scan is about to run, the step answers a next state; for a load that fails this is the model's
choice (log entry 9). -/
def Obligations.NoReadLeavesTheAddressSpace : Prop :=
  ∀ s : State, s.Inv →
    s.off % 2 = 0 ∧ (s.off < 0x200 + s.len → s.off ≤ 0xFFE) ∧ (∀ f : Fault, step s ≠ .fault f) ∧
    (s.phase = .load ∨ s.phase = .scan → ∃ t, step s = .next t)

/-- Every run ends (R139): from a sound state in which the loader is about to run, at most 1794 steps lead to the end of
the run, whatever the input. What counts as a step, and that a failed load is a next state, are the model's choices (log
entries 1 and 9). -/
def Obligations.EveryRunEnds : Prop :=
  ∀ s : State, s.Inv → s.phase = .load →
    ∃ (k : Nat) (t : State) (r : StopReason), k ≤ 1794 ∧ Sys2Proof.core.run k s = .next t ∧ t.phase = .ended r

/-- The machine's run refines the scan of R130: from a sound state in which the loader is about to run on a readable input
that fits, 1794 steps end the run by the bound or the sentinel, with outcome `OK` and exactly the listing that the loop of
R130 gives for a memory that holds the input from 0x200 on and 0x00 elsewhere. What counts as a step, and that an ended run
answers the same state, are the model's choices (log entries 1 and 11). -/
def Obligations.RunRefinesTheScanLoop : Prop :=
  ∀ (s : State) (p : List Byte), s.Inv → s.phase = .load → s.input = some p → p.length ≤ 3584 →
    ∃ (t : State) (m : Memory),
      Sys2Proof.core.run 1794 s = .next t ∧ (t.phase = .ended .bound ∨ t.phase = .ended .sentinel) ∧ t.outcome = .ok ∧
      (∀ (k : Nat) (h : k < p.length), m.read (0x200 + k) = p[k]) ∧
      (∀ a : Nat, a < 0x200 ∨ 0x200 + p.length ≤ a → m.read a = 0x00#8) ∧
      t.listing = scanListing m p.length 1793 0x200

/-- R23: no harness state survives from one run to the next: a new run on the same input starts alike from any two states,
but for the block's wires (which stay: log entry 19). -/
def Obligations.NewRunForgetsTheOldOne : Prop :=
  ∀ (s s' : State) (input : Option (List Byte)),
    { s.startRun input with wordI := s'.wordI, out := s'.out } = s'.startRun input ∧
    (s.out = blockDecode s.wordI → (s.startRun input).Inv)

/-- An instruction word placed by `withFetchWord` is what the very next step decodes, for every word, the all-zero word
included (log entry 8). -/
def Obligations.PlacedWordIsDecodedNext : Prop :=
  ∀ (s : State) (w : Word), s.mem.wf = true →
    decodeTableWord 16 w.toNat = some (decode w) ∧
    ∃ t, step (s.withFetchWord 16 w.toNat) = .next t ∧ t.wordI = w ∧ t.out = blockDecode w

/-! ### The reference renderer -/

/-- R113 and the source's first property: every word has a mnemonic code in 0 to 20, its pair form has a mnemonic, which is
not empty, and it renders. -/
def Obligations.EveryWordHasAMnemonic : Prop :=
  ∀ w : Word, (blockDecode w).mnemO.toNat ≤ 20 ∧ (∃ p, pairForm (blockDecode w) = some p ∧ p.1 ≠ "") ∧
    ∃ text, render (blockDecode w) = some text

/-- The layout of a rendered result (R118 to R123), for every row: a fallback word as its hexadecimal, a row without
operands as its mnemonic, operands joined by a comma and a space, registers in decimal, literals in lowercase hexadecimal,
every symbolic operand as spelled, the braced form of SHR and SHL, and the source's own examples. -/
def Obligations.RenderedLayout : Prop :=
  (∀ w : Word,
    (InFallbackSpace w → render (blockDecode w) = some (litText w.toNat)) ∧
    (F w = 0x0#4 → KK w = 0xE0#8 → render (blockDecode w) = some "CLS") ∧
    (F w = 0x0#4 → KK w = 0xEE#8 → render (blockDecode w) = some "RET") ∧
    (F w = 0x0#4 → KK w ≠ 0xE0#8 → KK w ≠ 0xEE#8 → Prints1 w "SYS" (litText (NNN w).toNat)) ∧
    (F w = 0x1#4 → Prints1 w "JP" (litText (NNN w).toNat)) ∧
    (F w = 0x2#4 → Prints1 w "CALL" (litText (NNN w).toNat)) ∧
    (F w = 0x3#4 → Prints2 w "SE" (regText (X w)) (litText (KK w).toNat)) ∧
    (F w = 0x4#4 → Prints2 w "SNE" (regText (X w)) (litText (KK w).toNat)) ∧
    (F w = 0x5#4 → Prints2 w "SE" (regText (X w)) (regText (Y w))) ∧
    (F w = 0x6#4 → Prints2 w "LD" (regText (X w)) (litText (KK w).toNat)) ∧
    (F w = 0x7#4 → Prints2 w "ADD" (regText (X w)) (litText (KK w).toNat)) ∧
    (F w = 0x9#4 → Prints2 w "SNE" (regText (X w)) (regText (Y w))) ∧
    (F w = 0xA#4 → Prints2 w "LD" "I" (litText (NNN w).toNat)) ∧
    (F w = 0xB#4 → Prints2 w "LD" "V0" (litText (NNN w).toNat)) ∧
    (F w = 0xC#4 → Prints2 w "RND" (regText (X w)) (litText (KK w).toNat)) ∧
    (F w = 0xD#4 → Prints2 w "DRW" (regText (X w)) (regText (Y w) ++ ", " ++ litText (N w).toNat))) ∧
  (∀ w : Word, F w = 0x8#4 →
    (N w = 0x0#4 → Prints2 w "LD" (regText (X w)) (regText (Y w))) ∧
    (N w = 0x1#4 → Prints2 w "OR" (regText (X w)) (regText (Y w))) ∧
    (N w = 0x2#4 → Prints2 w "AND" (regText (X w)) (regText (Y w))) ∧
    (N w = 0x3#4 → Prints2 w "XOR" (regText (X w)) (regText (Y w))) ∧
    (N w = 0x4#4 → Prints2 w "ADD" (regText (X w)) (regText (Y w))) ∧
    (N w = 0x5#4 → Prints2 w "SUB" (regText (X w)) (regText (Y w))) ∧
    (N w = 0x6#4 → PrintsBraced w "SHR" (regText (X w)) (regText (Y w))) ∧
    (N w = 0x7#4 → Prints2 w "SUBN" (regText (X w)) (regText (Y w))) ∧
    (N w = 0xE#4 → PrintsBraced w "SHL" (regText (X w)) (regText (Y w)))) ∧
  (∀ w : Word, F w = 0xE#4 →
    (KK w = 0x9E#8 → Prints1 w "SKP" (regText (X w))) ∧ (KK w = 0xA1#8 → Prints1 w "SKNP" (regText (X w)))) ∧
  (∀ w : Word, F w = 0xF#4 →
    (KK w = 0x07#8 → Prints2 w "LD" (regText (X w)) "DT") ∧ (KK w = 0x0A#8 → Prints2 w "LD" (regText (X w)) "_KEY_") ∧
    (KK w = 0x15#8 → Prints2 w "LD" "DT" (regText (X w))) ∧ (KK w = 0x18#8 → Prints2 w "LD" "ST" (regText (X w))) ∧
    (KK w = 0x1E#8 → Prints2 w "ADD" "I" (regText (X w))) ∧ (KK w = 0x29#8 → Prints2 w "LD" "_CHAR_" (regText (X w))) ∧
    (KK w = 0x33#8 → Prints2 w "LD" "_BCD_" (regText (X w))) ∧ (KK w = 0x55#8 → Prints2 w "LD" "[I]" (regText (X w))) ∧
    (KK w = 0x65#8 → Prints2 w "LD" (regText (X w)) "[I]")) ∧
  render (blockDecode 0x6A07) = some "LD V10, 0x7" ∧ render (blockDecode 0x8123) = some "XOR V1, V2" ∧
  render (blockDecode 0x1234) = some "JP 0x234" ∧ render (blockDecode 0xF0FF) = some "0xf0ff"

/-! ### What the outside can do, and the end of a run -/

/-- R158: whatever word an integrator drives on `word_i`, in whatever state, the ports are `Decode` of it; a step of the
driven block and the start of a run keep them so, and a sound state stays sound. (For the words that the scan presents see
ScanStepAppendsTheDecodedWord and StepKeepsTheInvariant.) That settling takes no step, and that the wires stay when a run starts, are the model's choices
(log entries 7, 16 and 19). -/
def Obligations.DrivenBlockSettles : Prop :=
  (∀ (s : State) (w : Word) (input : Option (List Byte)),
    (s.drive w).wordI = w ∧ (s.drive w).out = blockDecode w ∧ step (s.drive w) = .next (s.drive w) ∧
    ((s.drive w).startRun input).out = blockDecode ((s.drive w).startRun input).wordI) ∧
  ∀ (s : State) (w : Word), s.Inv → (s.drive w).Inv

/-- R127: a listing goes to exactly one destination, the console or a named file; a file without a name of its own has the
input's base name, with or without its extension (the parameter U11), and `_dump.txt` appended. Which characters end a
directory and begin an extension is the model's choice (log entry 17). -/
def Obligations.DefaultFileNameIsBaseNameWithSuffix : Prop :=
  (∀ (path n : String), destination path .console = .console ∧ destination path (.file (some n)) = .file n) ∧
  ∀ (dir stem ext : String), '/' ∉ stem.toList → '/' ∉ ext.toList → '.' ∉ ext.toList →
    ∃ n : String, (n = stem ++ "." ++ ext ++ "_dump.txt" ∨ n = stem ++ "_dump.txt") ∧
      destination (stem ++ "." ++ ext) (.file none) = .file n ∧
      destination (dir ++ "/" ++ (stem ++ "." ++ ext)) (.file none) = .file n

/-- R23: memory is discarded at the end of a run, and the listing is what remains of it: after the step that ends a run no
byte is held (so that every address reads 0x00, the model's choice, log entry 11) and the listing is as it was; and in
every sound state a run that has ended holds no byte. -/
def Obligations.MemoryIsDiscardedAtRunEnd : Prop :=
  (∀ (s t : State) (r : StopReason), s.phase = .load ∨ s.phase = .scan → step s = .next t → t.phase = .ended r →
    t.mem = [] ∧ (∀ a : Nat, t.mem.read a = 0x00#8) ∧ t.listing = s.listing) ∧
  ∀ (s : State) (r : StopReason), s.Inv → s.phase = .ended r → ∀ a : Nat, s.mem.read a = 0x00#8
end

