-- ==== Sys2Proof/Laws/Block.lean ====
section
/-! SUPPORT. `Decode(w)`: the arm of the primary multiplexer for each family (R68). -/

namespace Sys2Proof.Machine

section
variable {w : Word}

theorem primaryArm_family0 (h : fieldF w = 0x0#4) : primaryArm w = family0Arm w := by simp [primaryArm, h]
theorem primaryArm_family1 (h : fieldF w = 0x1#4) : primaryArm w = emit .jp .jp [.addr12 (fieldNNN w)] false := by simp [primaryArm, h]
theorem primaryArm_family2 (h : fieldF w = 0x2#4) : primaryArm w = emit .call .call [.addr12 (fieldNNN w)] false := by simp [primaryArm, h]
theorem primaryArm_family3 (h : fieldF w = 0x3#4) : primaryArm w = emit .seVxByte .se [.vreg (fieldX w), .byte (fieldKK w)] false := by simp [primaryArm, h]
theorem primaryArm_family4 (h : fieldF w = 0x4#4) : primaryArm w = emit .sneVxByte .sne [.vreg (fieldX w), .byte (fieldKK w)] false := by simp [primaryArm, h]
theorem primaryArm_family5 (h : fieldF w = 0x5#4) : primaryArm w = emit .seVxVy .se [.vreg (fieldX w), .vreg (fieldY w)] false := by simp [primaryArm, h]
theorem primaryArm_family6 (h : fieldF w = 0x6#4) : primaryArm w = emit .ldVxByte .ld [.vreg (fieldX w), .byte (fieldKK w)] false := by simp [primaryArm, h]
theorem primaryArm_family7 (h : fieldF w = 0x7#4) : primaryArm w = emit .addVxByte .add [.vreg (fieldX w), .byte (fieldKK w)] false := by simp [primaryArm, h]
theorem primaryArm_family8 (h : fieldF w = 0x8#4) : primaryArm w = family8Arm w := by simp [primaryArm, h]
theorem primaryArm_family9 (h : fieldF w = 0x9#4) : primaryArm w = emit .sneVxVy .sne [.vreg (fieldX w), .vreg (fieldY w)] false := by simp [primaryArm, h]
theorem primaryArm_familyA (h : fieldF w = 0xA#4) : primaryArm w = emit .ldIAddr .ld [.i, .addr12 (fieldNNN w)] false := by simp [primaryArm, h]
theorem primaryArm_familyB (h : fieldF w = 0xB#4) : primaryArm w = emit .ldV0Addr .ld [.v0, .addr12 (fieldNNN w)] false := by simp [primaryArm, h]
theorem primaryArm_familyC (h : fieldF w = 0xC#4) : primaryArm w = emit .rndVxByte .rnd [.vreg (fieldX w), .byte (fieldKK w)] false := by simp [primaryArm, h]
theorem primaryArm_familyD (h : fieldF w = 0xD#4) : primaryArm w = emit .drwVxVyN .drw [.vreg (fieldX w), .vreg (fieldY w), .nib4 (fieldN w)] false := by simp [primaryArm, h]
theorem primaryArm_familyE (h : fieldF w = 0xE#4) : primaryArm w = familyEArm w := by simp [primaryArm, h]
theorem primaryArm_familyF (h : fieldF w = 0xF#4) : primaryArm w = familyFArm w := by simp [primaryArm, h]

end

theorem blockDecode_eq (w : Word) : blockDecode w = primaryArm w (driveFields w .blank) := rfl

end Sys2Proof.Machine
end

