-- ==== Sys2Proof/Laws/Bus.lean ====
section
/-! SUPPORT. The output bus: one lemma per port per writer (R64, R66, R67), the order of the two writers, and the operand
slots of a list of each length (R58). -/

namespace Sys2Proof.Machine

/-! ### The extractor -/

@[simp] theorem driveFields_famO (w : Word) (d : DecodeOut) : (driveFields w d).famO = fieldF w := rfl
@[simp] theorem driveFields_xO (w : Word) (d : DecodeOut) : (driveFields w d).xO = fieldX w := rfl
@[simp] theorem driveFields_yO (w : Word) (d : DecodeOut) : (driveFields w d).yO = fieldY w := rfl
@[simp] theorem driveFields_nO (w : Word) (d : DecodeOut) : (driveFields w d).nO = fieldN w := rfl
@[simp] theorem driveFields_kkO (w : Word) (d : DecodeOut) : (driveFields w d).kkO = fieldKK w := rfl
@[simp] theorem driveFields_nnnO (w : Word) (d : DecodeOut) : (driveFields w d).nnnO = fieldNNN w := rfl
@[simp] theorem driveFields_hasSubO (w : Word) (d : DecodeOut) : (driveFields w d).hasSubO = (subKey w).isSome := rfl
@[simp] theorem driveFields_subO (w : Word) (d : DecodeOut) : (driveFields w d).subO = (subKey w).getD 0x00 := rfl
@[simp] theorem driveFields_opIdO (w : Word) (d : DecodeOut) : (driveFields w d).opIdO = d.opIdO := rfl
@[simp] theorem driveFields_mnemO (w : Word) (d : DecodeOut) : (driveFields w d).mnemO = d.mnemO := rfl
@[simp] theorem driveFields_nopsO (w : Word) (d : DecodeOut) : (driveFields w d).nopsO = d.nopsO := rfl
@[simp] theorem driveFields_k1O (w : Word) (d : DecodeOut) : (driveFields w d).k1O = d.k1O := rfl
@[simp] theorem driveFields_v1O (w : Word) (d : DecodeOut) : (driveFields w d).v1O = d.v1O := rfl
@[simp] theorem driveFields_k2O (w : Word) (d : DecodeOut) : (driveFields w d).k2O = d.k2O := rfl
@[simp] theorem driveFields_v2O (w : Word) (d : DecodeOut) : (driveFields w d).v2O = d.v2O := rfl
@[simp] theorem driveFields_k3O (w : Word) (d : DecodeOut) : (driveFields w d).k3O = d.k3O := rfl
@[simp] theorem driveFields_v3O (w : Word) (d : DecodeOut) : (driveFields w d).v3O = d.v3O := rfl
@[simp] theorem driveFields_opt2O (w : Word) (d : DecodeOut) : (driveFields w d).opt2O = d.opt2O := rfl
@[simp] theorem driveFields_rawO (w : Word) (d : DecodeOut) : (driveFields w d).rawO = d.rawO := rfl

/-! ### Emit -/

section
variable (id : RowId) (m : Mnem) (ops : List Operand) (opt : Bool) (d : DecodeOut)

@[simp] theorem emit_opIdO : (emit id m ops opt d).opIdO = rowCode id := rfl
@[simp] theorem emit_mnemO : (emit id m ops opt d).mnemO = mnemCode m := rfl
@[simp] theorem emit_nopsO : (emit id m ops opt d).nopsO = operandCount ops := rfl
@[simp] theorem emit_k1O : (emit id m ops opt d).k1O = kindCode (slot ops 0).kind := rfl
@[simp] theorem emit_v1O : (emit id m ops opt d).v1O = (slot ops 0).value := rfl
@[simp] theorem emit_k2O : (emit id m ops opt d).k2O = kindCode (slot ops 1).kind := rfl
@[simp] theorem emit_v2O : (emit id m ops opt d).v2O = (slot ops 1).value := rfl
@[simp] theorem emit_k3O : (emit id m ops opt d).k3O = kindCode (slot ops 2).kind := rfl
@[simp] theorem emit_v3O : (emit id m ops opt d).v3O = (slot ops 2).value := rfl
@[simp] theorem emit_opt2O : (emit id m ops opt d).opt2O = opt := rfl
@[simp] theorem emit_rawO : (emit id m ops opt d).rawO = rawFlag id := rfl
@[simp] theorem emit_famO : (emit id m ops opt d).famO = d.famO := rfl
@[simp] theorem emit_xO : (emit id m ops opt d).xO = d.xO := rfl
@[simp] theorem emit_yO : (emit id m ops opt d).yO = d.yO := rfl
@[simp] theorem emit_nO : (emit id m ops opt d).nO = d.nO := rfl
@[simp] theorem emit_kkO : (emit id m ops opt d).kkO = d.kkO := rfl
@[simp] theorem emit_nnnO : (emit id m ops opt d).nnnO = d.nnnO := rfl
@[simp] theorem emit_hasSubO : (emit id m ops opt d).hasSubO = d.hasSubO := rfl
@[simp] theorem emit_subO : (emit id m ops opt d).subO = d.subO := rfl

end

/-- What stood on the classification ports before `emit` is lost (R67), so the bus after a word's arm does not depend on
the bus before it (R16). -/
theorem emit_driveFields_indep (id : RowId) (m : Mnem) (ops : List Operand) (opt : Bool) (w : Word) (d d' : DecodeOut) :
    emit id m ops opt (driveFields w d) = emit id m ops opt (driveFields w d') := rfl

/-! ### Slots -/

@[simp] theorem slot_nil (n : Nat) : slot [] n = .unused := rfl
@[simp] theorem slot_cons_zero (a : Operand) (l : List Operand) : slot (a :: l) 0 = a := rfl
@[simp] theorem slot_cons_succ (a : Operand) (l : List Operand) (n : Nat) : slot (a :: l) (n + 1) = slot l n := rfl

/-! ### Codes read back (R62) -/

@[simp] theorem rowOfCode_rowCode (r : RowId) : rowOfCode (rowCode r) = some r := by cases r <;> decide
@[simp] theorem mnemOfCode_mnemCode (m : Mnem) : mnemOfCode (mnemCode m) = some m := by cases m <;> decide
@[simp] theorem kindOfCode_kindCode (k : Kind) : kindOfCode (kindCode k) = some k := by cases k <;> decide

/-- The raw flag is set for the fallback row alone (R61). -/
theorem rawFlag_eq_true_iff (r : RowId) : rawFlag r = true ↔ r = .raw := by cases r <;> decide

end Sys2Proof.Machine
end

