-- ==== Sys2Proof/Laws/Decode.lean ====
section
/-! SUPPORT. The decoder and encoder: the fields of a packed word, a word from its own fields (R42), the bytes of a word
(R33), and which instruction the multiplexer gives for each family and sub-key (R47). -/

namespace Sys2Proof

/-! ### Fields of a packed word -/

section
variable (f x y n : Nibble) (kk : Byte) (nnn : Addr12) (w : Word)

@[simp] theorem fieldF_packXYN : fieldF (packXYN f x y n) = f := by
  ext i hi; interval_cases i <;> simp [fieldF, packXYN]

@[simp] theorem fieldX_packXYN : fieldX (packXYN f x y n) = x := by
  ext i hi; interval_cases i <;> simp [fieldX, packXYN]

@[simp] theorem fieldY_packXYN : fieldY (packXYN f x y n) = y := by
  ext i hi; interval_cases i <;> simp [fieldY, packXYN]

@[simp] theorem fieldN_packXYN : fieldN (packXYN f x y n) = n := by
  ext i hi; interval_cases i <;> simp [fieldN, packXYN]

@[simp] theorem fieldF_packXKK : fieldF (packXKK f x kk) = f := by
  ext i hi; interval_cases i <;> simp [fieldF, packXKK]

@[simp] theorem fieldX_packXKK : fieldX (packXKK f x kk) = x := by
  ext i hi; interval_cases i <;> simp [fieldX, packXKK]

@[simp] theorem fieldKK_packXKK : fieldKK (packXKK f x kk) = kk := by
  ext i hi; interval_cases i <;> simp [fieldKK, packXKK]

@[simp] theorem fieldF_packNNN : fieldF (packNNN f nnn) = f := by
  ext i hi; interval_cases i <;> simp [fieldF, packNNN]

@[simp] theorem fieldNNN_packNNN : fieldNNN (packNNN f nnn) = nnn := by
  ext i hi; interval_cases i <;> simp [fieldNNN, packNNN]

@[simp] theorem fieldKK_packNNN : fieldKK (packNNN f nnn) = nnn.extractLsb' 0 8 := by
  ext i hi; interval_cases i <;> simp [fieldKK, packNNN]

/-! ### A word from its own fields (R42) -/

@[simp] theorem packXYN_fields : packXYN (fieldF w) (fieldX w) (fieldY w) (fieldN w) = w := by
  ext i hi; interval_cases i <;> simp [packXYN, fieldF, fieldX, fieldY, fieldN, BitVec.getLsbD_eq_getElem]

@[simp] theorem packXKK_fields : packXKK (fieldF w) (fieldX w) (fieldKK w) = w := by
  ext i hi; interval_cases i <;> simp [packXKK, fieldF, fieldX, fieldKK, BitVec.getLsbD_eq_getElem]

@[simp] theorem packNNN_fields : packNNN (fieldF w) (fieldNNN w) = w := by
  ext i hi; interval_cases i <;> simp [packNNN, fieldF, fieldNNN, BitVec.getLsbD_eq_getElem]

/-! ### The bytes of a word (R33) -/

@[simp] theorem wordOfBytes_bytes : wordOfBytes (highByte w) (lowByte w) = w := by
  ext i hi; interval_cases i <;> simp [wordOfBytes, highByte, lowByte, BitVec.getLsbD_eq_getElem]

end

section
variable (hi lo : Byte) (w : Word)

@[simp] theorem highByte_wordOfBytes : highByte (wordOfBytes hi lo) = hi := by
  ext i hi; interval_cases i <;> simp [wordOfBytes, highByte]

@[simp] theorem lowByte_wordOfBytes : lowByte (wordOfBytes hi lo) = lo := by
  ext i hi; interval_cases i <;> simp [wordOfBytes, lowByte]

/-- The low byte of NNN is KK (R42). -/
theorem fieldNNN_low : (fieldNNN w).extractLsb' 0 8 = fieldKK w := by
  ext i hi; interval_cases i <;> simp [fieldNNN, fieldKK]

end

/-! ### The arm of each family and sub-key (R47) -/

section
variable {w : Word}

theorem decode_family1 (h : fieldF w = 0x1#4) : decode w = .jp (fieldNNN w) := by simp [decode, h]
theorem decode_family2 (h : fieldF w = 0x2#4) : decode w = .call (fieldNNN w) := by simp [decode, h]
theorem decode_family3 (h : fieldF w = 0x3#4) : decode w = .seVxByte (fieldX w) (fieldKK w) := by simp [decode, h]
theorem decode_family4 (h : fieldF w = 0x4#4) : decode w = .sneVxByte (fieldX w) (fieldKK w) := by simp [decode, h]
theorem decode_family5 (h : fieldF w = 0x5#4) : decode w = .seVxVy (fieldX w) (fieldY w) := by simp [decode, h]
theorem decode_family6 (h : fieldF w = 0x6#4) : decode w = .ldVxByte (fieldX w) (fieldKK w) := by simp [decode, h]
theorem decode_family7 (h : fieldF w = 0x7#4) : decode w = .addVxByte (fieldX w) (fieldKK w) := by simp [decode, h]
theorem decode_family9 (h : fieldF w = 0x9#4) : decode w = .sneVxVy (fieldX w) (fieldY w) := by simp [decode, h]
theorem decode_familyA (h : fieldF w = 0xA#4) : decode w = .ldIAddr (fieldNNN w) := by simp [decode, h]
theorem decode_familyB (h : fieldF w = 0xB#4) : decode w = .ldV0Addr (fieldNNN w) := by simp [decode, h]
theorem decode_familyC (h : fieldF w = 0xC#4) : decode w = .rndVxByte (fieldX w) (fieldKK w) := by simp [decode, h]
theorem decode_familyD (h : fieldF w = 0xD#4) : decode w = .drwVxVyN (fieldX w) (fieldY w) (fieldN w) := by simp [decode, h]
theorem decode_family0 (h : fieldF w = 0x0#4) : decode w = decodeFamily0 w := by simp [decode, h]
theorem decode_family8 (h : fieldF w = 0x8#4) : decode w = decodeFamily8 w := by simp [decode, h]
theorem decode_familyE (h : fieldF w = 0xE#4) : decode w = decodeFamilyE w := by simp [decode, h]
theorem decode_familyF (h : fieldF w = 0xF#4) : decode w = decodeFamilyF w := by simp [decode, h]

/-- Family 0x0 as a chain of tests. -/
theorem decodeFamily0_eq (w : Word) :
    decodeFamily0 w =
      if fieldKK w = 0xE0#8 then .cls else if fieldKK w = 0xEE#8 then .ret else .sys (fieldNNN w) := by
  unfold decodeFamily0
  split
  · rename_i h; simp only [h, if_true]
  · rename_i h; rw [if_neg (by rw [h]; decide), if_pos h]
  · rename_i h h'; rw [if_neg h, if_neg h']

/-- Family 0x8 as a chain of tests. -/
theorem decodeFamily8_eq (w : Word) :
    decodeFamily8 w =
      if fieldN w = 0x0#4 then .ldVxVy (fieldX w) (fieldY w)
      else if fieldN w = 0x1#4 then .orVxVy (fieldX w) (fieldY w)
      else if fieldN w = 0x2#4 then .andVxVy (fieldX w) (fieldY w)
      else if fieldN w = 0x3#4 then .xorVxVy (fieldX w) (fieldY w)
      else if fieldN w = 0x4#4 then .addVxVy (fieldX w) (fieldY w)
      else if fieldN w = 0x5#4 then .subVxVy (fieldX w) (fieldY w)
      else if fieldN w = 0x6#4 then .shrVxVy (fieldX w) (fieldY w)
      else if fieldN w = 0x7#4 then .subnVxVy (fieldX w) (fieldY w)
      else if fieldN w = 0xE#4 then .shlVxVy (fieldX w) (fieldY w)
      else .raw w := by
  unfold decodeFamily8
  split
  · rename_i h; rw [if_pos h]
  · rename_i h; rw [if_neg (by rw [h]; decide), if_pos h]
  · rename_i h; rw [if_neg (by rw [h]; decide), if_neg (by rw [h]; decide), if_pos h]
  · rename_i h; rw [if_neg (by rw [h]; decide), if_neg (by rw [h]; decide), if_neg (by rw [h]; decide), if_pos h]
  · rename_i h; rw [if_neg (by rw [h]; decide), if_neg (by rw [h]; decide), if_neg (by rw [h]; decide), if_neg (by rw [h]; decide), if_pos h]
  · rename_i h; rw [if_neg (by rw [h]; decide), if_neg (by rw [h]; decide), if_neg (by rw [h]; decide), if_neg (by rw [h]; decide), if_neg (by rw [h]; decide), if_pos h]
  · rename_i h; rw [if_neg (by rw [h]; decide), if_neg (by rw [h]; decide), if_neg (by rw [h]; decide), if_neg (by rw [h]; decide), if_neg (by rw [h]; decide), if_neg (by rw [h]; decide), if_pos h]
  · rename_i h; rw [if_neg (by rw [h]; decide), if_neg (by rw [h]; decide), if_neg (by rw [h]; decide), if_neg (by rw [h]; decide), if_neg (by rw [h]; decide), if_neg (by rw [h]; decide), if_neg (by rw [h]; decide), if_pos h]
  · rename_i h; rw [if_neg (by rw [h]; decide), if_neg (by rw [h]; decide), if_neg (by rw [h]; decide), if_neg (by rw [h]; decide), if_neg (by rw [h]; decide), if_neg (by rw [h]; decide), if_neg (by rw [h]; decide), if_neg (by rw [h]; decide), if_pos h]
  · rename_i h0 h1 h2 h3 h4 h5 h6 h7 h8; rw [if_neg h0, if_neg h1, if_neg h2, if_neg h3, if_neg h4, if_neg h5, if_neg h6, if_neg h7, if_neg h8]

/-- Family 0xE as a chain of tests. -/
theorem decodeFamilyE_eq (w : Word) :
    decodeFamilyE w =
      if fieldKK w = 0x9E#8 then .skpVx (fieldX w)
      else if fieldKK w = 0xA1#8 then .sknpVx (fieldX w)
      else .raw w := by
  unfold decodeFamilyE
  split
  · rename_i h; rw [if_pos h]
  · rename_i h; rw [if_neg (by rw [h]; decide), if_pos h]
  · rename_i h0 h1; rw [if_neg h0, if_neg h1]

/-- Family 0xF as a chain of tests. -/
theorem decodeFamilyF_eq (w : Word) :
    decodeFamilyF w =
      if fieldKK w = 0x07#8 then .ldVxDt (fieldX w)
      else if fieldKK w = 0x0A#8 then .ldVxKey (fieldX w)
      else if fieldKK w = 0x15#8 then .ldDtVx (fieldX w)
      else if fieldKK w = 0x18#8 then .ldStVx (fieldX w)
      else if fieldKK w = 0x1E#8 then .addIVx (fieldX w)
      else if fieldKK w = 0x29#8 then .ldCharVx (fieldX w)
      else if fieldKK w = 0x33#8 then .ldBcdVx (fieldX w)
      else if fieldKK w = 0x55#8 then .ldMiVx (fieldX w)
      else if fieldKK w = 0x65#8 then .ldVxMi (fieldX w)
      else .raw w := by
  unfold decodeFamilyF
  split
  · rename_i h; rw [if_pos h]
  · rename_i h; rw [if_neg (by rw [h]; decide), if_pos h]
  · rename_i h; rw [if_neg (by rw [h]; decide), if_neg (by rw [h]; decide), if_pos h]
  · rename_i h; rw [if_neg (by rw [h]; decide), if_neg (by rw [h]; decide), if_neg (by rw [h]; decide), if_pos h]
  · rename_i h; rw [if_neg (by rw [h]; decide), if_neg (by rw [h]; decide), if_neg (by rw [h]; decide), if_neg (by rw [h]; decide), if_pos h]
  · rename_i h; rw [if_neg (by rw [h]; decide), if_neg (by rw [h]; decide), if_neg (by rw [h]; decide), if_neg (by rw [h]; decide), if_neg (by rw [h]; decide), if_pos h]
  · rename_i h; rw [if_neg (by rw [h]; decide), if_neg (by rw [h]; decide), if_neg (by rw [h]; decide), if_neg (by rw [h]; decide), if_neg (by rw [h]; decide), if_neg (by rw [h]; decide), if_pos h]
  · rename_i h; rw [if_neg (by rw [h]; decide), if_neg (by rw [h]; decide), if_neg (by rw [h]; decide), if_neg (by rw [h]; decide), if_neg (by rw [h]; decide), if_neg (by rw [h]; decide), if_neg (by rw [h]; decide), if_pos h]
  · rename_i h; rw [if_neg (by rw [h]; decide), if_neg (by rw [h]; decide), if_neg (by rw [h]; decide), if_neg (by rw [h]; decide), if_neg (by rw [h]; decide), if_neg (by rw [h]; decide), if_neg (by rw [h]; decide), if_neg (by rw [h]; decide), if_pos h]
  · rename_i h0 h1 h2 h3 h4 h5 h6 h7 h8; rw [if_neg h0, if_neg h1, if_neg h2, if_neg h3, if_neg h4, if_neg h5, if_neg h6, if_neg h7, if_neg h8]

theorem decodeFamily0_sys (h0 : fieldKK w ≠ 0xE0#8) (h1 : fieldKK w ≠ 0xEE#8) : decodeFamily0 w = .sys (fieldNNN w) := by
  rw [decodeFamily0_eq, if_neg h0, if_neg h1]

/-- The sixteen values of F (R68). -/
theorem fieldF_cases (w : Word) :
    fieldF w = 0x0#4 ∨ fieldF w = 0x1#4 ∨ fieldF w = 0x2#4 ∨ fieldF w = 0x3#4 ∨ fieldF w = 0x4#4 ∨ fieldF w = 0x5#4 ∨
    fieldF w = 0x6#4 ∨ fieldF w = 0x7#4 ∨ fieldF w = 0x8#4 ∨ fieldF w = 0x9#4 ∨ fieldF w = 0xA#4 ∨ fieldF w = 0xB#4 ∨
    fieldF w = 0xC#4 ∨ fieldF w = 0xD#4 ∨ fieldF w = 0xE#4 ∨ fieldF w = 0xF#4 := by
  generalize fieldF w = f; revert f; decide

/-- The sixteen values of N. -/
theorem fieldN_cases (w : Word) :
    fieldN w = 0x0#4 ∨ fieldN w = 0x1#4 ∨ fieldN w = 0x2#4 ∨ fieldN w = 0x3#4 ∨ fieldN w = 0x4#4 ∨ fieldN w = 0x5#4 ∨
    fieldN w = 0x6#4 ∨ fieldN w = 0x7#4 ∨ fieldN w = 0x8#4 ∨ fieldN w = 0x9#4 ∨ fieldN w = 0xA#4 ∨ fieldN w = 0xB#4 ∨
    fieldN w = 0xC#4 ∨ fieldN w = 0xD#4 ∨ fieldN w = 0xE#4 ∨ fieldN w = 0xF#4 := by
  generalize fieldN w = f; revert f; decide

end

end Sys2Proof
end

