-- ==== Sys2Proof/Laws/State.lean ====
section
/-! SUPPORT. One lemma per field per state operation: the value the operation gives the field, or that it leaves the field
as it was. -/

namespace Sys2Proof.Machine

/-! ### State.present -/

@[simp] theorem State.present_wordI (s : State) (w : Word) : (s.present w).wordI = w := rfl
@[simp] theorem State.present_out (s : State) (w : Word) : (s.present w).out = driveFields w s.out := rfl
@[simp] theorem State.present_mem (s : State) (w : Word) : (s.present w).mem = s.mem := rfl
@[simp] theorem State.present_len (s : State) (w : Word) : (s.present w).len = s.len := rfl
@[simp] theorem State.present_loaded (s : State) (w : Word) : (s.present w).loaded = s.loaded := rfl
@[simp] theorem State.present_off (s : State) (w : Word) : (s.present w).off = s.off := rfl
@[simp] theorem State.present_listing (s : State) (w : Word) : (s.present w).listing = s.listing := rfl
@[simp] theorem State.present_outcome (s : State) (w : Word) : (s.present w).outcome = s.outcome := rfl
@[simp] theorem State.present_input (s : State) (w : Word) : (s.present w).input = s.input := rfl
@[simp] theorem State.present_phase (s : State) (w : Word) : (s.present w).phase = s.phase := rfl

/-! ### State.emit -/

@[simp] theorem State.emit_wordI (s : State) (id : RowId) (m : Mnem) (ops : List Operand) (opt : Bool) : (s.emit id m ops opt).wordI = s.wordI := rfl
@[simp] theorem State.emit_out (s : State) (id : RowId) (m : Mnem) (ops : List Operand) (opt : Bool) : (s.emit id m ops opt).out = Machine.emit id m ops opt s.out := rfl
@[simp] theorem State.emit_mem (s : State) (id : RowId) (m : Mnem) (ops : List Operand) (opt : Bool) : (s.emit id m ops opt).mem = s.mem := rfl
@[simp] theorem State.emit_len (s : State) (id : RowId) (m : Mnem) (ops : List Operand) (opt : Bool) : (s.emit id m ops opt).len = s.len := rfl
@[simp] theorem State.emit_loaded (s : State) (id : RowId) (m : Mnem) (ops : List Operand) (opt : Bool) : (s.emit id m ops opt).loaded = s.loaded := rfl
@[simp] theorem State.emit_off (s : State) (id : RowId) (m : Mnem) (ops : List Operand) (opt : Bool) : (s.emit id m ops opt).off = s.off := rfl
@[simp] theorem State.emit_listing (s : State) (id : RowId) (m : Mnem) (ops : List Operand) (opt : Bool) : (s.emit id m ops opt).listing = s.listing := rfl
@[simp] theorem State.emit_outcome (s : State) (id : RowId) (m : Mnem) (ops : List Operand) (opt : Bool) : (s.emit id m ops opt).outcome = s.outcome := rfl
@[simp] theorem State.emit_input (s : State) (id : RowId) (m : Mnem) (ops : List Operand) (opt : Bool) : (s.emit id m ops opt).input = s.input := rfl
@[simp] theorem State.emit_phase (s : State) (id : RowId) (m : Mnem) (ops : List Operand) (opt : Bool) : (s.emit id m ops opt).phase = s.phase := rfl

/-! ### State.raise -/

@[simp] theorem State.raise_wordI (s : State) (o : HarnessOutcome) : (s.raise o).wordI = s.wordI := rfl
@[simp] theorem State.raise_out (s : State) (o : HarnessOutcome) : (s.raise o).out = s.out := rfl
@[simp] theorem State.raise_mem (s : State) (o : HarnessOutcome) : (s.raise o).mem = [] := rfl
@[simp] theorem State.raise_len (s : State) (o : HarnessOutcome) : (s.raise o).len = s.len := rfl
@[simp] theorem State.raise_loaded (s : State) (o : HarnessOutcome) : (s.raise o).loaded = s.loaded := rfl
@[simp] theorem State.raise_off (s : State) (o : HarnessOutcome) : (s.raise o).off = s.off := rfl
@[simp] theorem State.raise_listing (s : State) (o : HarnessOutcome) : (s.raise o).listing = s.listing := rfl
@[simp] theorem State.raise_outcome (s : State) (o : HarnessOutcome) : (s.raise o).outcome = o := rfl
@[simp] theorem State.raise_input (s : State) (o : HarnessOutcome) : (s.raise o).input = s.input := rfl
@[simp] theorem State.raise_phase (s : State) (o : HarnessOutcome) : (s.raise o).phase = .ended .loadFailed := rfl

/-! ### State.loadBytes -/

@[simp] theorem State.loadBytes_wordI (s : State) (p : List Byte) : (s.loadBytes p).wordI = s.wordI := rfl
@[simp] theorem State.loadBytes_out (s : State) (p : List Byte) : (s.loadBytes p).out = s.out := rfl
@[simp] theorem State.loadBytes_mem (s : State) (p : List Byte) : (s.loadBytes p).mem = Memory.writeBytes s.mem Config.base p := rfl
@[simp] theorem State.loadBytes_len (s : State) (p : List Byte) : (s.loadBytes p).len = p.length := rfl
@[simp] theorem State.loadBytes_loaded (s : State) (p : List Byte) : (s.loadBytes p).loaded = true := rfl
@[simp] theorem State.loadBytes_off (s : State) (p : List Byte) : (s.loadBytes p).off = Config.base := rfl
@[simp] theorem State.loadBytes_listing (s : State) (p : List Byte) : (s.loadBytes p).listing = [] := rfl
@[simp] theorem State.loadBytes_outcome (s : State) (p : List Byte) : (s.loadBytes p).outcome = s.outcome := rfl
@[simp] theorem State.loadBytes_input (s : State) (p : List Byte) : (s.loadBytes p).input = s.input := rfl
@[simp] theorem State.loadBytes_phase (s : State) (p : List Byte) : (s.loadBytes p).phase = .scan := rfl

/-! ### State.record -/

@[simp] theorem State.record_wordI (s : State) : (s.record).wordI = s.wordI := rfl
@[simp] theorem State.record_out (s : State) : (s.record).out = s.out := rfl
@[simp] theorem State.record_mem (s : State) : (s.record).mem = s.mem := rfl
@[simp] theorem State.record_len (s : State) : (s.record).len = s.len := rfl
@[simp] theorem State.record_loaded (s : State) : (s.record).loaded = s.loaded := rfl
@[simp] theorem State.record_off (s : State) : (s.record).off = s.off + 2 := rfl
@[simp] theorem State.record_listing (s : State) : (s.record).listing = s.listing ++ [⟨s.off, s.out⟩] := rfl
@[simp] theorem State.record_outcome (s : State) : (s.record).outcome = s.outcome := rfl
@[simp] theorem State.record_input (s : State) : (s.record).input = s.input := rfl
@[simp] theorem State.record_phase (s : State) : (s.record).phase = s.phase := rfl

/-! ### State.endRun -/

@[simp] theorem State.endRun_wordI (s : State) (r : StopReason) : (s.endRun r).wordI = s.wordI := rfl
@[simp] theorem State.endRun_out (s : State) (r : StopReason) : (s.endRun r).out = s.out := rfl
@[simp] theorem State.endRun_mem (s : State) (r : StopReason) : (s.endRun r).mem = [] := rfl
@[simp] theorem State.endRun_len (s : State) (r : StopReason) : (s.endRun r).len = s.len := rfl
@[simp] theorem State.endRun_loaded (s : State) (r : StopReason) : (s.endRun r).loaded = s.loaded := rfl
@[simp] theorem State.endRun_off (s : State) (r : StopReason) : (s.endRun r).off = s.off := rfl
@[simp] theorem State.endRun_listing (s : State) (r : StopReason) : (s.endRun r).listing = s.listing := rfl
@[simp] theorem State.endRun_outcome (s : State) (r : StopReason) : (s.endRun r).outcome = s.outcome := rfl
@[simp] theorem State.endRun_input (s : State) (r : StopReason) : (s.endRun r).input = s.input := rfl
@[simp] theorem State.endRun_phase (s : State) (r : StopReason) : (s.endRun r).phase = .ended r := rfl

/-! ### State.startRun -/

@[simp] theorem State.startRun_wordI (s : State) (input : Option (List Byte)) : (s.startRun input).wordI = s.wordI := rfl
@[simp] theorem State.startRun_out (s : State) (input : Option (List Byte)) : (s.startRun input).out = s.out := rfl
@[simp] theorem State.startRun_mem (s : State) (input : Option (List Byte)) : (s.startRun input).mem = [] := rfl
@[simp] theorem State.startRun_len (s : State) (input : Option (List Byte)) : (s.startRun input).len = 0 := rfl
@[simp] theorem State.startRun_loaded (s : State) (input : Option (List Byte)) : (s.startRun input).loaded = false := rfl
@[simp] theorem State.startRun_off (s : State) (input : Option (List Byte)) : (s.startRun input).off = Config.base := rfl
@[simp] theorem State.startRun_listing (s : State) (input : Option (List Byte)) : (s.startRun input).listing = [] := rfl
@[simp] theorem State.startRun_outcome (s : State) (input : Option (List Byte)) : (s.startRun input).outcome = .ok := rfl
@[simp] theorem State.startRun_input (s : State) (input : Option (List Byte)) : (s.startRun input).input = input := rfl
@[simp] theorem State.startRun_phase (s : State) (input : Option (List Byte)) : (s.startRun input).phase = .load := rfl

/-! ### State.drive -/

@[simp] theorem State.drive_wordI (s : State) (w : Word) : (s.drive w).wordI = w := rfl
@[simp] theorem State.drive_out (s : State) (w : Word) : (s.drive w).out = blockDecode w := rfl
@[simp] theorem State.drive_mem (s : State) (w : Word) : (s.drive w).mem = s.mem := rfl
@[simp] theorem State.drive_len (s : State) (w : Word) : (s.drive w).len = s.len := rfl
@[simp] theorem State.drive_loaded (s : State) (w : Word) : (s.drive w).loaded = s.loaded := rfl
@[simp] theorem State.drive_off (s : State) (w : Word) : (s.drive w).off = s.off := rfl
@[simp] theorem State.drive_listing (s : State) (w : Word) : (s.drive w).listing = s.listing := rfl
@[simp] theorem State.drive_outcome (s : State) (w : Word) : (s.drive w).outcome = s.outcome := rfl
@[simp] theorem State.drive_input (s : State) (w : Word) : (s.drive w).input = s.input := rfl
@[simp] theorem State.drive_phase (s : State) (w : Word) : (s.drive w).phase = .driven := rfl

/-! ### State.storeNext -/

@[simp] theorem State.storeNext_wordI (s : State) (w : Word) : (s.storeNext w).wordI = s.wordI := rfl
@[simp] theorem State.storeNext_out (s : State) (w : Word) : (s.storeNext w).out = s.out := rfl
@[simp] theorem State.storeNext_mem (s : State) (w : Word) : (s.storeNext w).mem = Memory.writeBytes s.mem s.off [highByte w, lowByte w] := rfl
@[simp] theorem State.storeNext_len (s : State) (w : Word) : (s.storeNext w).len = max s.len (s.off + 2 - Config.base) := rfl
@[simp] theorem State.storeNext_loaded (s : State) (w : Word) : (s.storeNext w).loaded = true := rfl
@[simp] theorem State.storeNext_off (s : State) (w : Word) : (s.storeNext w).off = s.off := rfl
@[simp] theorem State.storeNext_listing (s : State) (w : Word) : (s.storeNext w).listing = s.listing := rfl
@[simp] theorem State.storeNext_outcome (s : State) (w : Word) : (s.storeNext w).outcome = s.outcome := rfl
@[simp] theorem State.storeNext_input (s : State) (w : Word) : (s.storeNext w).input = s.input := rfl
@[simp] theorem State.storeNext_phase (s : State) (w : Word) : (s.storeNext w).phase = .scan := rfl

/-! ### Reset -/

@[simp] theorem State.reset_wordI : State.reset.wordI = 0x0000 := rfl
@[simp] theorem State.reset_out : State.reset.out = blockDecode 0x0000 := rfl
@[simp] theorem State.reset_mem : State.reset.mem = [] := rfl
@[simp] theorem State.reset_len : State.reset.len = 0 := rfl
@[simp] theorem State.reset_loaded : State.reset.loaded = false := rfl
@[simp] theorem State.reset_off : State.reset.off = Config.base := rfl
@[simp] theorem State.reset_listing : State.reset.listing = [] := rfl
@[simp] theorem State.reset_outcome : State.reset.outcome = .ok := rfl
@[simp] theorem State.reset_input : State.reset.input = none := rfl
@[simp] theorem State.reset_phase : State.reset.phase = .load := rfl

end Sys2Proof.Machine
end

