-- ==== Sys2Proof/Laws/Exec.lean ====
section
/-! SUPPORT. Every meaning at once: an instruction writes the classification ports of its row, with its mnemonic, its
operands in order and its braced-operand flag, and nothing else (`exec_eq`). Later proofs cite this and unfold no meaning. -/

namespace Sys2Proof.Machine

/-- The mnemonic of an instruction (R57). -/
def mnemOf : Instr → Mnem
  | .cls => .cls
  | .ret => .ret
  | .sys _ => .sys
  | .jp _ => .jp
  | .call _ => .call
  | .seVxByte _ _ => .se
  | .sneVxByte _ _ => .sne
  | .seVxVy _ _ => .se
  | .ldVxByte _ _ => .ld
  | .addVxByte _ _ => .add
  | .ldVxVy _ _ => .ld
  | .orVxVy _ _ => .or
  | .andVxVy _ _ => .and
  | .xorVxVy _ _ => .xor
  | .addVxVy _ _ => .add
  | .subVxVy _ _ => .sub
  | .shrVxVy _ _ => .shr
  | .subnVxVy _ _ => .subn
  | .shlVxVy _ _ => .shl
  | .sneVxVy _ _ => .sne
  | .ldIAddr _ => .ld
  | .ldV0Addr _ => .ld
  | .rndVxByte _ _ => .rnd
  | .drwVxVyN _ _ _ => .drw
  | .skpVx _ => .skp
  | .sknpVx _ => .sknp
  | .ldVxDt _ => .ld
  | .ldVxKey _ => .ld
  | .ldDtVx _ => .ld
  | .ldStVx _ => .ld
  | .addIVx _ => .add
  | .ldCharVx _ => .ld
  | .ldBcdVx _ => .ld
  | .ldMiVx _ => .ld
  | .ldVxMi _ => .ld
  | .raw _ => .raw

/-- The operands of an instruction, in output order (R43, R45). -/
def operandsOf : Instr → List Operand
  | .cls => []
  | .ret => []
  | .sys nnn => [.addr12 nnn]
  | .jp nnn => [.addr12 nnn]
  | .call nnn => [.addr12 nnn]
  | .seVxByte x kk => [.vreg x, .byte kk]
  | .sneVxByte x kk => [.vreg x, .byte kk]
  | .seVxVy x y => [.vreg x, .vreg y]
  | .ldVxByte x kk => [.vreg x, .byte kk]
  | .addVxByte x kk => [.vreg x, .byte kk]
  | .ldVxVy x y => [.vreg x, .vreg y]
  | .orVxVy x y => [.vreg x, .vreg y]
  | .andVxVy x y => [.vreg x, .vreg y]
  | .xorVxVy x y => [.vreg x, .vreg y]
  | .addVxVy x y => [.vreg x, .vreg y]
  | .subVxVy x y => [.vreg x, .vreg y]
  | .shrVxVy x y => [.vreg x, .vreg y]
  | .subnVxVy x y => [.vreg x, .vreg y]
  | .shlVxVy x y => [.vreg x, .vreg y]
  | .sneVxVy x y => [.vreg x, .vreg y]
  | .ldIAddr nnn => [.i, .addr12 nnn]
  | .ldV0Addr nnn => [.v0, .addr12 nnn]
  | .rndVxByte x kk => [.vreg x, .byte kk]
  | .drwVxVyN x y n => [.vreg x, .vreg y, .nib4 n]
  | .skpVx x => [.vreg x]
  | .sknpVx x => [.vreg x]
  | .ldVxDt x => [.vreg x, .dt]
  | .ldVxKey x => [.vreg x, .key]
  | .ldDtVx x => [.dt, .vreg x]
  | .ldStVx x => [.st, .vreg x]
  | .addIVx x => [.i, .vreg x]
  | .ldCharVx x => [.char, .vreg x]
  | .ldBcdVx x => [.bcd, .vreg x]
  | .ldMiVx x => [.memI, .vreg x]
  | .ldVxMi x => [.vreg x, .memI]
  | .raw w => [.word16 w]

/-- `opt2_o` of an instruction: SHR and SHL only (R60). -/
def optOf : Instr → Bool
  | .cls => false
  | .ret => false
  | .sys _ => false
  | .jp _ => false
  | .call _ => false
  | .seVxByte _ _ => false
  | .sneVxByte _ _ => false
  | .seVxVy _ _ => false
  | .ldVxByte _ _ => false
  | .addVxByte _ _ => false
  | .ldVxVy _ _ => false
  | .orVxVy _ _ => false
  | .andVxVy _ _ => false
  | .xorVxVy _ _ => false
  | .addVxVy _ _ => false
  | .subVxVy _ _ => false
  | .shrVxVy _ _ => true
  | .subnVxVy _ _ => false
  | .shlVxVy _ _ => true
  | .sneVxVy _ _ => false
  | .ldIAddr _ => false
  | .ldV0Addr _ => false
  | .rndVxByte _ _ => false
  | .drwVxVyN _ _ _ => false
  | .skpVx _ => false
  | .sknpVx _ => false
  | .ldVxDt _ => false
  | .ldVxKey _ => false
  | .ldDtVx _ => false
  | .ldStVx _ => false
  | .addIVx _ => false
  | .ldCharVx _ => false
  | .ldBcdVx _ => false
  | .ldMiVx _ => false
  | .ldVxMi _ => false
  | .raw _ => false

/-- The state after an instruction. -/
def afterExec (i : Instr) (s : State) : State := s.emit i.row (mnemOf i) (operandsOf i) (optOf i)

/-- An instruction always answers the next state in which its row's classification ports stand on the bus (R67, R140). -/
theorem exec_eq (i : Instr) (s : State) : exec i s = .next (afterExec i s) := by cases i <;> rfl

/-- What an instruction may change: the output bus. -/
theorem exec_next_inv {i : Instr} {s t : State} (h : exec i s = .next t) : t = afterExec i s := by
  rw [exec_eq] at h; injection h with h; exact h.symm

/-- The state after a word is evaluated. -/
def afterEval (w : Word) (s : State) : State := afterExec (decode w) (s.present w)

theorem evalWord_eq (w : Word) (s : State) : evalWord w s = .next (afterEval w s) := exec_eq _ _

section
variable (i : Instr) (w : Word) (s : State)

@[simp] theorem afterExec_wordI : (afterExec i s).wordI = s.wordI := rfl
@[simp] theorem afterExec_mem : (afterExec i s).mem = s.mem := rfl
@[simp] theorem afterExec_len : (afterExec i s).len = s.len := rfl
@[simp] theorem afterExec_loaded : (afterExec i s).loaded = s.loaded := rfl
@[simp] theorem afterExec_off : (afterExec i s).off = s.off := rfl
@[simp] theorem afterExec_listing : (afterExec i s).listing = s.listing := rfl
@[simp] theorem afterExec_outcome : (afterExec i s).outcome = s.outcome := rfl
@[simp] theorem afterExec_input : (afterExec i s).input = s.input := rfl
@[simp] theorem afterExec_phase : (afterExec i s).phase = s.phase := rfl
@[simp] theorem afterExec_out :
    (afterExec i s).out = Machine.emit i.row (mnemOf i) (operandsOf i) (optOf i) s.out := rfl

@[simp] theorem afterEval_wordI : (afterEval w s).wordI = w := rfl
@[simp] theorem afterEval_mem : (afterEval w s).mem = s.mem := rfl
@[simp] theorem afterEval_len : (afterEval w s).len = s.len := rfl
@[simp] theorem afterEval_loaded : (afterEval w s).loaded = s.loaded := rfl
@[simp] theorem afterEval_off : (afterEval w s).off = s.off := rfl
@[simp] theorem afterEval_listing : (afterEval w s).listing = s.listing := rfl
@[simp] theorem afterEval_outcome : (afterEval w s).outcome = s.outcome := rfl
@[simp] theorem afterEval_input : (afterEval w s).input = s.input := rfl
@[simp] theorem afterEval_phase : (afterEval w s).phase = s.phase := rfl

/-- An instruction has at most three operands (R59). -/
theorem operandsOf_length : (operandsOf i).length ≤ 3 := by cases i <;> simp [operandsOf]

end

end Sys2Proof.Machine
end

