-- ==== Sys2Proof/Laws/Memory.lean ====
section
/-! SUPPORT. The laws of harness memory: a read after a write to the same address gives the value written, a write leaves
every other address alone, and both memory operations keep the canonical form. -/

namespace Sys2Proof.Machine

@[simp] theorem Memory.unlisted_eq : Memory.unlisted = 0x00#8 := rfl

@[simp] theorem Memory.read_nil (a : Nat) : Memory.read [] a = 0x00#8 := rfl

theorem Memory.read_cons (b : Nat) (v : Byte) (m : Memory) (a : Nat) :
    Memory.read ((b, v) :: m) a = if a = b then v else Memory.read m a := rfl

/-- Below its first address a canonical memory reads as unlisted. -/
theorem Memory.read_below {lo a : Nat} {m : Memory} (h : Memory.wfFrom lo m = true) (ha : a < lo) :
    Memory.read m a = 0x00#8 := by
  induction m generalizing lo with
  | nil => rfl
  | cons c m ih =>
    obtain ⟨b, v⟩ := c
    simp only [Memory.wfFrom, Bool.and_eq_true, decide_eq_true_eq] at h
    obtain ⟨⟨⟨hlo, -⟩, -⟩, hm⟩ := h
    rw [Memory.read_cons, if_neg (by omega), ih hm (by omega)]

theorem Memory.wfFrom_mono {lo lo' : Nat} {m : Memory} (h : Memory.wfFrom lo m = true) (hl : lo' ≤ lo) :
    Memory.wfFrom lo' m = true := by
  cases m with
  | nil => rfl
  | cons c m =>
    obtain ⟨b, v⟩ := c
    simp only [Memory.wfFrom, Bool.and_eq_true, decide_eq_true_eq] at h ⊢
    exact ⟨⟨⟨by omega, h.1.1.2⟩, h.1.2⟩, h.2⟩

/-- A cell before a canonical memory. -/
theorem Memory.wfFrom_cell_append {lo a : Nat} {v : Byte} {m : Memory} (hlo : lo ≤ a) (ha : a < Config.memSize)
    (hm : Memory.wfFrom (a + 1) m = true) : Memory.wfFrom lo (Memory.cell a v ++ m) = true := by
  unfold Memory.cell
  split
  · exact Memory.wfFrom_mono hm (by omega)
  · rename_i hv
    simpa [Memory.wfFrom, hlo, ha, hm] using hv

theorem Memory.wfFrom_write {lo a : Nat} {v : Byte} {m : Memory} (h : Memory.wfFrom lo m = true) (hlo : lo ≤ a)
    (ha : a < Config.memSize) : Memory.wfFrom lo (Memory.write m a v) = true := by
  induction m generalizing lo with
  | nil => simpa [Memory.write] using Memory.wfFrom_cell_append (m := []) hlo ha rfl
  | cons c m ih =>
    obtain ⟨b, u⟩ := c
    have h' := h
    simp only [Memory.wfFrom, Bool.and_eq_true, decide_eq_true_eq] at h'
    obtain ⟨⟨⟨hb, hbs⟩, hu⟩, hm⟩ := h'
    simp only [Memory.write]
    split
    · rename_i hab
      refine Memory.wfFrom_cell_append hlo ha ?_
      simp [Memory.wfFrom, hbs, hm, Nat.succ_le_of_lt hab]
      simpa using hu
    · split
      · rename_i hab hab'
        exact Memory.wfFrom_cell_append hlo ha (hab' ▸ hm)
      · simp only [Memory.wfFrom, Bool.and_eq_true, decide_eq_true_eq]
        exact ⟨⟨⟨hb, hbs⟩, hu⟩, ih hm (by omega)⟩

/-- A write inside the address space keeps the canonical form. -/
theorem Memory.wf_write {m : Memory} {a : Nat} (v : Byte) (h : m.wf = true) (ha : a < Config.memSize) :
    (Memory.write m a v).wf = true := Memory.wfFrom_write h (Nat.zero_le a) ha

/-- The loader's loop keeps the canonical form where it stays inside the address space. -/
theorem Memory.wf_writeBytes {m : Memory} {a : Nat} {p : List Byte} (h : m.wf = true)
    (ha : a + p.length ≤ Config.memSize) : (Memory.writeBytes m a p).wf = true := by
  induction p generalizing m a with
  | nil => exact h
  | cons v vs ih =>
    simp only [List.length_cons] at ha
    exact ih (Memory.wf_write v h (by omega)) (by omega)

theorem Memory.read_cell_append_self {a : Nat} {v : Byte} {m : Memory} (hm : Memory.read m a = 0x00#8) :
    Memory.read (Memory.cell a v ++ m) a = v := by
  unfold Memory.cell
  split
  · rename_i hv
    simpa [hv] using hm
  · simp [Memory.read_cons]

theorem Memory.read_cell_append_ne {a b : Nat} (v : Byte) (m : Memory) (h : b ≠ a) :
    Memory.read (Memory.cell a v ++ m) b = Memory.read m b := by
  unfold Memory.cell
  split
  · rfl
  · simp [Memory.read_cons, h]

theorem Memory.read_write_same_from {lo a : Nat} (v : Byte) {m : Memory} (h : Memory.wfFrom lo m = true) :
    Memory.read (Memory.write m a v) a = v := by
  induction m generalizing lo with
  | nil => simpa [Memory.write] using Memory.read_cell_append_self (v := v) (Memory.read_nil a)
  | cons c m ih =>
    obtain ⟨b, u⟩ := c
    have h' := h
    simp only [Memory.wfFrom, Bool.and_eq_true, decide_eq_true_eq] at h'
    obtain ⟨⟨⟨hb, hbs⟩, hu⟩, hm⟩ := h'
    simp only [Memory.write]
    split
    · rename_i hab
      apply Memory.read_cell_append_self
      rw [Memory.read_cons, if_neg (by omega)]
      exact Memory.read_below hm (by omega)
    · split
      · rename_i hab hab'
        exact Memory.read_cell_append_self (Memory.read_below hm (by omega))
      · rename_i hab hab'
        rw [Memory.read_cons, if_neg hab']
        exact ih hm

/-- A read after a write to the same address gives the value written. -/
theorem Memory.read_write_same {m : Memory} (a : Nat) (v : Byte) (h : m.wf = true) :
    Memory.read (Memory.write m a v) a = v := Memory.read_write_same_from v h

/-- A write leaves every other address alone. -/
theorem Memory.read_write_other (m : Memory) {a b : Nat} (v : Byte) (hne : b ≠ a) :
    Memory.read (Memory.write m a v) b = Memory.read m b := by
  induction m with
  | nil => simpa [Memory.write] using Memory.read_cell_append_ne v [] hne
  | cons c m ih =>
    obtain ⟨d, u⟩ := c
    simp only [Memory.write]
    split
    · exact Memory.read_cell_append_ne v _ hne
    · split
      · rename_i hab'
        rw [Memory.read_cell_append_ne v _ hne, Memory.read_cons, if_neg (by omega)]
      · simp only [Memory.read_cons, ih]

/-- The loader's loop leaves every address outside the written range alone. -/
theorem Memory.read_writeBytes_outside (m : Memory) (a : Nat) (p : List Byte) {b : Nat}
    (h : b < a ∨ a + p.length ≤ b) : Memory.read (Memory.writeBytes m a p) b = Memory.read m b := by
  induction p generalizing m a with
  | nil => rfl
  | cons v vs ih =>
    simp only [List.length_cons] at h
    simp only [Memory.writeBytes]
    rw [ih _ _ (by omega), Memory.read_write_other _ _ (by omega)]

/-- The loader's loop writes its bytes in order (R30). -/
theorem Memory.read_writeBytes_inside {m : Memory} {a : Nat} {p : List Byte} (h : m.wf = true)
    (ha : a + p.length ≤ Config.memSize) (k : Nat) (hk : k < p.length) :
    Memory.read (Memory.writeBytes m a p) (a + k) = p[k] := by
  induction p generalizing m a k with
  | nil => simp at hk
  | cons v vs ih =>
    simp only [List.length_cons] at ha hk
    simp only [Memory.writeBytes]
    have hw := Memory.wf_write v h (a := a) (by omega)
    cases k with
    | zero => rw [Memory.read_writeBytes_outside _ _ _ (by omega)]; exact Memory.read_write_same a v h
    | succ k =>
      rw [show a + (k + 1) = a + 1 + k by omega, List.getElem_cons_succ]
      exact ih hw (by omega) k (by omega)

/-- The word at an address does not change where neither of its bytes does. -/
theorem Memory.wordAt_congr {m m' : Memory} {a : Nat} (h0 : m.read a = m'.read a)
    (h1 : m.read (a + 1) = m'.read (a + 1)) : m.wordAt a = m'.wordAt a := by simp [Memory.wordAt, h0, h1]

end Sys2Proof.Machine
end

