-- ==== Sys2Proof/Laws/PerInstr.lean ====
section
/-! SUPPORT. Statements made per instruction: EncodesToRow says that the word of an instruction has the pattern of the
instruction's own row of the opcode table under the row's mask (R44). -/

namespace Sys2Proof.Laws.EncodesToRow

/-- The word of `i` is hit by the row of `i` in the opcode table (R44). -/
def Statement (i : Instr) : Prop := ∀ r ∈ opcodeTable, r.row = i.row → r.hits (encode i) = true

/-- The rows of the table, one by one. -/
theorem of_row {i : Instr} {p m : Word} {pr : Nat} (hmem : opcodeTable.filter (fun r => r.row == i.row) = [⟨i.row, p, m, pr⟩])
    (h : encode i &&& m = p) : Statement i := by
  intro r hr hrow
  have : r ∈ opcodeTable.filter (fun r => r.row == i.row) := by simp [List.mem_filter, hr, hrow]
  rw [hmem, List.mem_singleton] at this
  subst this
  simpa [OpcodeRow.hits] using h

/-- The bits a mask keeps of a packed word. -/
theorem packXYN_masked (f x y n : Nibble) :
    packXYN f x y n &&& 0xF000#16 = f.setWidth 16 <<< 12 ∧
    packXYN f x y n &&& 0xF00F#16 = (f.setWidth 16 <<< 12) ||| n.setWidth 16 := by
  constructor <;> (ext i hi; interval_cases i <;> simp [packXYN])

theorem packXKK_masked (f x : Nibble) (kk : Byte) :
    packXKK f x kk &&& 0xF000#16 = f.setWidth 16 <<< 12 ∧
    packXKK f x kk &&& 0xF0FF#16 = (f.setWidth 16 <<< 12) ||| kk.setWidth 16 := by
  constructor <;> (ext i hi; interval_cases i <;> simp [packXKK])

theorem packNNN_masked (f : Nibble) (nnn : Addr12) : packNNN f nnn &&& 0xF000#16 = f.setWidth 16 <<< 12 := by
  ext i hi; interval_cases i <;> simp [packNNN]

theorem cls : Statement (.cls) := of_row (p := 0x00E0) (m := 0xF0FF) (pr := 2) (by rfl) (by decide)
theorem ret : Statement (.ret) := of_row (p := 0x00EE) (m := 0xF0FF) (pr := 2) (by rfl) (by decide)
theorem sys (nnn : Addr12) : Statement (.sys nnn) := of_row (p := 0x0000) (m := 0xF000) (pr := 1) (by rfl) ((packNNN_masked _ _).trans (by decide))
theorem jp (nnn : Addr12) : Statement (.jp nnn) := of_row (p := 0x1000) (m := 0xF000) (pr := 2) (by rfl) ((packNNN_masked _ _).trans (by decide))
theorem call (nnn : Addr12) : Statement (.call nnn) := of_row (p := 0x2000) (m := 0xF000) (pr := 2) (by rfl) ((packNNN_masked _ _).trans (by decide))
theorem seVxByte (x : Nibble) (kk : Byte) : Statement (.seVxByte x kk) := of_row (p := 0x3000) (m := 0xF000) (pr := 2) (by rfl) ((packXKK_masked _ _ _).1.trans (by decide))
theorem sneVxByte (x : Nibble) (kk : Byte) : Statement (.sneVxByte x kk) := of_row (p := 0x4000) (m := 0xF000) (pr := 2) (by rfl) ((packXKK_masked _ _ _).1.trans (by decide))
theorem seVxVy (x : Nibble) (y : Nibble) : Statement (.seVxVy x y) := of_row (p := 0x5000) (m := 0xF000) (pr := 2) (by rfl) ((packXYN_masked _ _ _ _).1.trans (by decide))
theorem ldVxByte (x : Nibble) (kk : Byte) : Statement (.ldVxByte x kk) := of_row (p := 0x6000) (m := 0xF000) (pr := 2) (by rfl) ((packXKK_masked _ _ _).1.trans (by decide))
theorem addVxByte (x : Nibble) (kk : Byte) : Statement (.addVxByte x kk) := of_row (p := 0x7000) (m := 0xF000) (pr := 2) (by rfl) ((packXKK_masked _ _ _).1.trans (by decide))
theorem ldVxVy (x : Nibble) (y : Nibble) : Statement (.ldVxVy x y) := of_row (p := 0x8000) (m := 0xF00F) (pr := 2) (by rfl) ((packXYN_masked _ _ _ _).2.trans (by decide))
theorem orVxVy (x : Nibble) (y : Nibble) : Statement (.orVxVy x y) := of_row (p := 0x8001) (m := 0xF00F) (pr := 2) (by rfl) ((packXYN_masked _ _ _ _).2.trans (by decide))
theorem andVxVy (x : Nibble) (y : Nibble) : Statement (.andVxVy x y) := of_row (p := 0x8002) (m := 0xF00F) (pr := 2) (by rfl) ((packXYN_masked _ _ _ _).2.trans (by decide))
theorem xorVxVy (x : Nibble) (y : Nibble) : Statement (.xorVxVy x y) := of_row (p := 0x8003) (m := 0xF00F) (pr := 2) (by rfl) ((packXYN_masked _ _ _ _).2.trans (by decide))
theorem addVxVy (x : Nibble) (y : Nibble) : Statement (.addVxVy x y) := of_row (p := 0x8004) (m := 0xF00F) (pr := 2) (by rfl) ((packXYN_masked _ _ _ _).2.trans (by decide))
theorem subVxVy (x : Nibble) (y : Nibble) : Statement (.subVxVy x y) := of_row (p := 0x8005) (m := 0xF00F) (pr := 2) (by rfl) ((packXYN_masked _ _ _ _).2.trans (by decide))
theorem shrVxVy (x : Nibble) (y : Nibble) : Statement (.shrVxVy x y) := of_row (p := 0x8006) (m := 0xF00F) (pr := 2) (by rfl) ((packXYN_masked _ _ _ _).2.trans (by decide))
theorem subnVxVy (x : Nibble) (y : Nibble) : Statement (.subnVxVy x y) := of_row (p := 0x8007) (m := 0xF00F) (pr := 2) (by rfl) ((packXYN_masked _ _ _ _).2.trans (by decide))
theorem shlVxVy (x : Nibble) (y : Nibble) : Statement (.shlVxVy x y) := of_row (p := 0x800E) (m := 0xF00F) (pr := 2) (by rfl) ((packXYN_masked _ _ _ _).2.trans (by decide))
theorem sneVxVy (x : Nibble) (y : Nibble) : Statement (.sneVxVy x y) := of_row (p := 0x9000) (m := 0xF000) (pr := 2) (by rfl) ((packXYN_masked _ _ _ _).1.trans (by decide))
theorem ldIAddr (nnn : Addr12) : Statement (.ldIAddr nnn) := of_row (p := 0xA000) (m := 0xF000) (pr := 2) (by rfl) ((packNNN_masked _ _).trans (by decide))
theorem ldV0Addr (nnn : Addr12) : Statement (.ldV0Addr nnn) := of_row (p := 0xB000) (m := 0xF000) (pr := 2) (by rfl) ((packNNN_masked _ _).trans (by decide))
theorem rndVxByte (x : Nibble) (kk : Byte) : Statement (.rndVxByte x kk) := of_row (p := 0xC000) (m := 0xF000) (pr := 2) (by rfl) ((packXKK_masked _ _ _).1.trans (by decide))
theorem drwVxVyN (x : Nibble) (y : Nibble) (n : Nibble) : Statement (.drwVxVyN x y n) := of_row (p := 0xD000) (m := 0xF000) (pr := 2) (by rfl) ((packXYN_masked _ _ _ _).1.trans (by decide))
theorem skpVx (x : Nibble) : Statement (.skpVx x) := of_row (p := 0xE09E) (m := 0xF0FF) (pr := 2) (by rfl) ((packXKK_masked _ _ _).2.trans (by decide))
theorem sknpVx (x : Nibble) : Statement (.sknpVx x) := of_row (p := 0xE0A1) (m := 0xF0FF) (pr := 2) (by rfl) ((packXKK_masked _ _ _).2.trans (by decide))
theorem ldVxDt (x : Nibble) : Statement (.ldVxDt x) := of_row (p := 0xF007) (m := 0xF0FF) (pr := 2) (by rfl) ((packXKK_masked _ _ _).2.trans (by decide))
theorem ldVxKey (x : Nibble) : Statement (.ldVxKey x) := of_row (p := 0xF00A) (m := 0xF0FF) (pr := 2) (by rfl) ((packXKK_masked _ _ _).2.trans (by decide))
theorem ldDtVx (x : Nibble) : Statement (.ldDtVx x) := of_row (p := 0xF015) (m := 0xF0FF) (pr := 2) (by rfl) ((packXKK_masked _ _ _).2.trans (by decide))
theorem ldStVx (x : Nibble) : Statement (.ldStVx x) := of_row (p := 0xF018) (m := 0xF0FF) (pr := 2) (by rfl) ((packXKK_masked _ _ _).2.trans (by decide))
theorem addIVx (x : Nibble) : Statement (.addIVx x) := of_row (p := 0xF01E) (m := 0xF0FF) (pr := 2) (by rfl) ((packXKK_masked _ _ _).2.trans (by decide))
theorem ldCharVx (x : Nibble) : Statement (.ldCharVx x) := of_row (p := 0xF029) (m := 0xF0FF) (pr := 2) (by rfl) ((packXKK_masked _ _ _).2.trans (by decide))
theorem ldBcdVx (x : Nibble) : Statement (.ldBcdVx x) := of_row (p := 0xF033) (m := 0xF0FF) (pr := 2) (by rfl) ((packXKK_masked _ _ _).2.trans (by decide))
theorem ldMiVx (x : Nibble) : Statement (.ldMiVx x) := of_row (p := 0xF055) (m := 0xF0FF) (pr := 2) (by rfl) ((packXKK_masked _ _ _).2.trans (by decide))
theorem ldVxMi (x : Nibble) : Statement (.ldVxMi x) := of_row (p := 0xF065) (m := 0xF0FF) (pr := 2) (by rfl) ((packXKK_masked _ _ _).2.trans (by decide))
theorem raw (w : Word) : Statement (.raw w) := of_row (p := 0x0000) (m := 0x0000) (pr := 0) (by rfl) (by simp [encode])

end Sys2Proof.Laws.EncodesToRow
end

