-- ==== Sys2Proof/Laws/Render.lean ====
section
/-! SUPPORT. What the reference renderer gives for a record of each shape (R118, R122, R123), said once, the braced form as
characters, and what a base name and its stem are (R127). -/

namespace Sys2Proof.Machine

/-! ### A record of each shape -/

theorem render_raw {d : DecodeOut} (hr : d.rawO = true) : render d = some (hexText d.v1O.toNat) := by
  simp [render, renderRaw, hr]

theorem render_none {d : DecodeOut} {m : Mnem} (hr : d.rawO = false) (hn : d.nopsO = 0) (hm : mnemOfCode d.mnemO = some m) :
    render d = some (mnemText m) := by simp [render, hr, hn, hm]

theorem render_one {d : DecodeOut} {m : Mnem} {a : String} (hr : d.rawO = false) (hn : d.nopsO = 1) (ho : d.opt2O = false)
    (hm : mnemOfCode d.mnemO = some m) (h1 : slotText (d.k1O, d.v1O) = some a) :
    render d = some (mnemText m ++ " " ++ a) := by
  simp [render, hr, hn, hm, operandPart, ho, operandTexts, DecodeOut.slots, h1, joinTexts]

theorem render_two {d : DecodeOut} {m : Mnem} {a b : String} (hr : d.rawO = false) (hn : d.nopsO = 2) (ho : d.opt2O = false)
    (hm : mnemOfCode d.mnemO = some m) (h1 : slotText (d.k1O, d.v1O) = some a) (h2 : slotText (d.k2O, d.v2O) = some b) :
    render d = some (mnemText m ++ " " ++ (a ++ ", " ++ b)) := by
  simp [render, hr, hn, hm, operandPart, ho, operandTexts, DecodeOut.slots, h1, h2, joinTexts]

theorem render_three {d : DecodeOut} {m : Mnem} {a b c : String} (hr : d.rawO = false) (hn : d.nopsO = 3)
    (ho : d.opt2O = false) (hm : mnemOfCode d.mnemO = some m) (h1 : slotText (d.k1O, d.v1O) = some a)
    (h2 : slotText (d.k2O, d.v2O) = some b) (h3 : slotText (d.k3O, d.v3O) = some c) :
    render d = some (mnemText m ++ " " ++ (a ++ ", " ++ (b ++ ", " ++ c))) := by
  simp [render, hr, hn, hm, operandPart, ho, operandTexts, DecodeOut.slots, h1, h2, h3, joinTexts]

theorem render_braced {d : DecodeOut} {m : Mnem} {a b : String} (hr : d.rawO = false) (hn : d.nopsO = 2)
    (ho : d.opt2O = true) (hm : mnemOfCode d.mnemO = some m) (h1 : slotText (d.k1O, d.v1O) = some a)
    (h2 : slotText (d.k2O, d.v2O) = some b) : render d = some (mnemText m ++ " " ++ bracedText a b) := by
  simp [render, hr, hn, hm, operandPart, ho, h1, h2]

/-- The braced form character by character: 123 opens the group and 125 closes it (R122). -/
theorem bracedText_chars (a b : String) :
    bracedText a b = String.ofList (a.toList ++ [' ', Char.ofNat 123, ',', ' '] ++ b.toList ++ [Char.ofNat 125]) := by
  apply String.toList_inj.mp
  simp [bracedText, openBrace, closeBrace]

/-! ### File names -/

/-- A name without a slash is its own base name. -/
theorem baseNameChars_plain {l : List Char} (h : '/' ∉ l) : baseNameChars l = l := by
  cases l with
  | nil => rfl
  | cons c cs => rw [baseNameChars, if_neg h]

/-- The base name is what stands after the last slash. -/
theorem baseNameChars_append (k : List Char) {l : List Char} (h : '/' ∉ l) : baseNameChars (k ++ '/' :: l) = l := by
  induction k with
  | nil => simp [baseNameChars, baseNameChars_plain h]
  | cons c cs ih => simp [baseNameChars, ih]

/-- The stem is what stands before the last period. -/
theorem stemChars_append (k : List Char) {l : List Char} (h : '.' ∉ l) : stemChars (k ++ '.' :: l) = k := by
  induction k with
  | nil => simp [stemChars, h]
  | cons c cs ih => simp [stemChars, ih]

/-- A name without a period is its own stem. -/
theorem stemChars_plain {l : List Char} (h : '.' ∉ l) : stemChars l = l := by
  cases l with
  | nil => rfl
  | cons c cs => simp_all [stemChars, eq_comm]

end Sys2Proof.Machine
end

