-- ==== Sys2Proof/Laws/Step.lean ====
section
/-! SUPPORT. What the loader, the scan's fetch and one step can do, each said once. -/

namespace Sys2Proof.Machine

/-! ### The loader (R29, R30, R31) -/

theorem load_unavailable {s : State} (h : s.input = none) : s.load = s.raise .inputUnavailable := by
  simp [State.load, h]

theorem load_oversized {s : State} {p : List Byte} (h : s.input = some p) (hp : Config.maxLoad < p.length) :
    s.load = s.raise .capacityExceeded := by simp [State.load, h, hp]

theorem load_fits {s : State} {p : List Byte} (h : s.input = some p) (hp : p.length ≤ Config.maxLoad) :
    s.load = s.loadBytes p := by simp [State.load, h, Nat.not_lt.mpr hp]

/-- The loader either raises one of its two failures or loads the whole input. -/
theorem load_cases (s : State) :
    (∃ o, o ≠ .ok ∧ s.load = s.raise o) ∨ (∃ p, s.input = some p ∧ p.length ≤ Config.maxLoad ∧ s.load = s.loadBytes p) := by
  cases h : s.input with
  | none => exact .inl ⟨_, by decide, load_unavailable h⟩
  | some p =>
    by_cases hp : p.length ≤ Config.maxLoad
    · exact .inr ⟨p, rfl, hp, load_fits h hp⟩
    · exact .inl ⟨_, by decide, load_oversized h (by omega)⟩

/-! ### The scan's fetch (R130) -/

/-- A word is fetched only inside the loaded program and the address space, and is never the sentinel. -/
theorem fetch_word_iff {s : State} {w : Word} :
    s.fetch = .word w ↔
      s.loaded = true ∧ s.off < Config.base + s.len ∧ s.off + 1 < Config.memSize ∧ w ≠ 0x0000#16 ∧ s.mem.wordAt s.off = w := by
  unfold State.fetch inMem
  grind

theorem fetch_stop_iff {s : State} {r : StopReason} :
    s.fetch = .stop r ↔
      s.loaded = true ∧
      ((r = .bound ∧ Config.base + s.len ≤ s.off) ∨
       (r = .sentinel ∧ s.off < Config.base + s.len ∧ s.off + 1 < Config.memSize ∧ s.mem.wordAt s.off = 0x0000#16)) := by
  unfold State.fetch inMem
  grind

/-! ### One step -/

/-- Everything a step that answers a next state can have done. -/
theorem step_cases {s t : State} (h : step s = .next t) :
    (s.phase = .load ∧ t = s.load) ∨
    (s.phase = .scan ∧ ∃ w, s.fetch = .word w ∧ t = (afterEval w s).record) ∨
    (s.phase = .scan ∧ ∃ r, s.fetch = .stop r ∧ t = s.endRun r) ∨
    (s.phase = .driven ∧ t = afterEval s.wordI s) ∨
    ((s.phase = .ended .bound ∨ s.phase = .ended .sentinel) ∧ t = s) := by
  unfold step phaseStep at h
  cases hp : s.phase with
  | load => simp_all
  | scan =>
    simp only [hp, scanStep] at h
    cases hf : s.fetch with
    | word w => simp_all [evalWord_eq]
    | stop r => simp_all
    | notLoaded => simp_all
    | outside a => simp_all
  | ended r => cases r <;> simp_all [endedStep]
  | driven => simp_all [evalWord_eq]

/-! ### Runs -/

theorem run_zero (s : State) : Sys2Proof.core.run 0 s = .next s := rfl

/-- A run whose first step answers a next state goes on from there. -/
theorem run_succ_of_next {s t : State} (h : step s = .next t) (k : Nat) :
    Sys2Proof.core.run (k + 1) s = Sys2Proof.core.run k t := by
  have h' : Sys2Proof.core.step s = .next t := h
  simp [Host.Core.run, h']

end Sys2Proof.Machine
end

