-- ==== Sys2Proof/Tests/Slice0.lean ====
section
/-! SUPPORT. Small tests. Expected values are the spec's own: the vectors V<n>.<m> of 95_test_vectors.md section 3, its worked
examples L1.<n>, its extractor vectors X<n>, and hand calculation from the rules named. After them, for every statement with
hypotheses, a witness that meets them. -/

namespace Sys2Proof.Tests
open Sys2Proof.Machine

/-! ### Well-formedness: one ill-formed term for each check, which the check refuses -/

/-- The low byte 0xE0 is CLS's (R75). -/
theorem test_illformed_sys_cls : (Instr.sys 0x1E0).wellFormed = false := by decide
/-- The low byte 0xEE is RET's (R75). -/
theorem test_illformed_sys_ret : (Instr.sys 0x0EE).wellFormed = false := by decide
/-- 0x800E is SHL, no fallback word (R91). -/
theorem test_illformed_raw_family8 : (Instr.raw 0x800E).wellFormed = false := by decide
/-- 0xE09E is SKP (R98). -/
theorem test_illformed_raw_familyE : (Instr.raw 0xE09E).wellFormed = false := by decide
/-- 0xF065 is LD VX, [I] (R109). -/
theorem test_illformed_raw_familyF : (Instr.raw 0xF065).wellFormed = false := by decide
/-- No word of family 0x5 falls back (R49). -/
theorem test_illformed_raw_family5 : (Instr.raw 0x5AB1).wellFormed = false := by decide
/-- The boundary words of R50 are well-formed fallbacks. -/
theorem test_wellformed_boundaries :
    (Instr.raw 0x800D).wellFormed ∧ (Instr.raw 0x8FFF).wellFormed ∧ (Instr.raw 0xE09F).wellFormed ∧
    (Instr.raw 0xF008).wellFormed ∧ (Instr.sys 0x0E1).wellFormed := by decide

/-! ### Decoding: a word of each row, written out bit by bit -/

/-- V1.1: 0x00E0. -/
theorem test_decode_cls : decode 0b0000000011100000 = .cls ∧ encode (.cls) = 0x00E0 := by decide
/-- V1.3: 0x00EE. -/
theorem test_decode_ret : decode 0b0000000011101110 = .ret ∧ encode (.ret) = 0x00EE := by decide
/-- V1.5: 0x00E1. -/
theorem test_decode_sys : decode 0b0000000011100001 = .sys 0xE1 ∧ encode (.sys 0xE1) = 0x00E1 := by decide
/-- V2.1: 0x1000. -/
theorem test_decode_jp : decode 0b0001000000000000 = .jp 0x0 ∧ encode (.jp 0x0) = 0x1000 := by decide
/-- V2.4: 0x2ABC. -/
theorem test_decode_call : decode 0b0010101010111100 = .call 0xABC ∧ encode (.call 0xABC) = 0x2ABC := by decide
/-- V2.6: 0x3F00. -/
theorem test_decode_seVxByte : decode 0b0011111100000000 = .seVxByte 0xF 0x0 ∧ encode (.seVxByte 0xF 0x0) = 0x3F00 := by decide
/-- V2.8: 0x41FF. -/
theorem test_decode_sneVxByte : decode 0b0100000111111111 = .sneVxByte 0x1 0xFF ∧ encode (.sneVxByte 0x1 0xFF) = 0x41FF := by decide
/-- V2.9: 0x5120. -/
theorem test_decode_seVxVy : decode 0b0101000100100000 = .seVxVy 0x1 0x2 ∧ encode (.seVxVy 0x1 0x2) = 0x5120 := by decide
/-- V2.12: 0x6A07. -/
theorem test_decode_ldVxByte : decode 0b0110101000000111 = .ldVxByte 0xA 0x7 ∧ encode (.ldVxByte 0xA 0x7) = 0x6A07 := by decide
/-- V2.14: 0x7E80. -/
theorem test_decode_addVxByte : decode 0b0111111010000000 = .addVxByte 0xE 0x80 ∧ encode (.addVxByte 0xE 0x80) = 0x7E80 := by decide
/-- V3.1: 0x8AB0. -/
theorem test_decode_ldVxVy : decode 0b1000101010110000 = .ldVxVy 0xA 0xB ∧ encode (.ldVxVy 0xA 0xB) = 0x8AB0 := by decide
/-- V3.2: 0x8121. -/
theorem test_decode_orVxVy : decode 0b1000000100100001 = .orVxVy 0x1 0x2 ∧ encode (.orVxVy 0x1 0x2) = 0x8121 := by decide
/-- V3.3: 0x8342. -/
theorem test_decode_andVxVy : decode 0b1000001101000010 = .andVxVy 0x3 0x4 ∧ encode (.andVxVy 0x3 0x4) = 0x8342 := by decide
/-- V3.4: 0x8123. -/
theorem test_decode_xorVxVy : decode 0b1000000100100011 = .xorVxVy 0x1 0x2 ∧ encode (.xorVxVy 0x1 0x2) = 0x8123 := by decide
/-- V3.5: 0x8FF4. -/
theorem test_decode_addVxVy : decode 0b1000111111110100 = .addVxVy 0xF 0xF ∧ encode (.addVxVy 0xF 0xF) = 0x8FF4 := by decide
/-- V3.6: 0x8015. -/
theorem test_decode_subVxVy : decode 0b1000000000010101 = .subVxVy 0x0 0x1 ∧ encode (.subVxVy 0x0 0x1) = 0x8015 := by decide
/-- V3.7: 0x8AB6. -/
theorem test_decode_shrVxVy : decode 0b1000101010110110 = .shrVxVy 0xA 0xB ∧ encode (.shrVxVy 0xA 0xB) = 0x8AB6 := by decide
/-- V3.8: 0x8C07. -/
theorem test_decode_subnVxVy : decode 0b1000110000000111 = .subnVxVy 0xC 0x0 ∧ encode (.subnVxVy 0xC 0x0) = 0x8C07 := by decide
/-- V3.9: 0x8ABE. -/
theorem test_decode_shlVxVy : decode 0b1000101010111110 = .shlVxVy 0xA 0xB ∧ encode (.shlVxVy 0xA 0xB) = 0x8ABE := by decide
/-- V4.1: 0x9AB0. -/
theorem test_decode_sneVxVy : decode 0b1001101010110000 = .sneVxVy 0xA 0xB ∧ encode (.sneVxVy 0xA 0xB) = 0x9AB0 := by decide
/-- V4.3: 0xA22A. -/
theorem test_decode_ldIAddr : decode 0b1010001000101010 = .ldIAddr 0x22A ∧ encode (.ldIAddr 0x22A) = 0xA22A := by decide
/-- V4.6: 0xB123. -/
theorem test_decode_ldV0Addr : decode 0b1011000100100011 = .ldV0Addr 0x123 ∧ encode (.ldV0Addr 0x123) = 0xB123 := by decide
/-- V4.8: 0xC30F. -/
theorem test_decode_rndVxByte : decode 0b1100001100001111 = .rndVxByte 0x3 0xF ∧ encode (.rndVxByte 0x3 0xF) = 0xC30F := by decide
/-- V4.10: 0xDABF. -/
theorem test_decode_drwVxVyN : decode 0b1101101010111111 = .drwVxVyN 0xA 0xB 0xF ∧ encode (.drwVxVyN 0xA 0xB 0xF) = 0xDABF := by decide
/-- V5.1: 0xE19E. -/
theorem test_decode_skpVx : decode 0b1110000110011110 = .skpVx 0x1 ∧ encode (.skpVx 0x1) = 0xE19E := by decide
/-- V5.5: 0xE2A1. -/
theorem test_decode_sknpVx : decode 0b1110001010100001 = .sknpVx 0x2 ∧ encode (.sknpVx 0x2) = 0xE2A1 := by decide
/-- V6.1: 0xF307. -/
theorem test_decode_ldVxDt : decode 0b1111001100000111 = .ldVxDt 0x3 ∧ encode (.ldVxDt 0x3) = 0xF307 := by decide
/-- V6.2: 0xF50A. -/
theorem test_decode_ldVxKey : decode 0b1111010100001010 = .ldVxKey 0x5 ∧ encode (.ldVxKey 0x5) = 0xF50A := by decide
/-- V6.3: 0xF415. -/
theorem test_decode_ldDtVx : decode 0b1111010000010101 = .ldDtVx 0x4 ∧ encode (.ldDtVx 0x4) = 0xF415 := by decide
/-- V6.4: 0xF618. -/
theorem test_decode_ldStVx : decode 0b1111011000011000 = .ldStVx 0x6 ∧ encode (.ldStVx 0x6) = 0xF618 := by decide
/-- V6.5: 0xF71E. -/
theorem test_decode_addIVx : decode 0b1111011100011110 = .addIVx 0x7 ∧ encode (.addIVx 0x7) = 0xF71E := by decide
/-- V6.6: 0xF829. -/
theorem test_decode_ldCharVx : decode 0b1111100000101001 = .ldCharVx 0x8 ∧ encode (.ldCharVx 0x8) = 0xF829 := by decide
/-- V6.7: 0xF033. -/
theorem test_decode_ldBcdVx : decode 0b1111000000110011 = .ldBcdVx 0x0 ∧ encode (.ldBcdVx 0x0) = 0xF033 := by decide
/-- V6.8: 0xFF55. -/
theorem test_decode_ldMiVx : decode 0b1111111101010101 = .ldMiVx 0xF ∧ encode (.ldMiVx 0xF) = 0xFF55 := by decide
/-- V6.9: 0xFF65. -/
theorem test_decode_ldVxMi : decode 0b1111111101100101 = .ldVxMi 0xF ∧ encode (.ldVxMi 0xF) = 0xFF65 := by decide
/-- V3.10: 0x8008. -/
theorem test_decode_raw : decode 0b1000000000001000 = .raw 0x8008 ∧ encode (.raw 0x8008) = 0x8008 := by decide

/-- The neighbours of the named sub-keys fall back: V3.15, V3.16, V5.3, V5.4, V6.10, V6.11, V6.13, V6.14. -/
theorem test_decode_fallback_neighbours :
    decode 0x8ABD = .raw 0x8ABD ∧ decode 0x8ABF = .raw 0x8ABF ∧ decode 0xE09D = .raw 0xE09D ∧ decode 0xE09F = .raw 0xE09F ∧
    decode 0xF006 = .raw 0xF006 ∧ decode 0xF008 = .raw 0xF008 ∧ decode 0xF064 = .raw 0xF064 ∧ decode 0xF066 = .raw 0xF066 := by
  decide
/-- The neighbours of CLS and RET are SYS: V1.5 to V1.9. -/
theorem test_decode_sys_neighbours :
    decode 0x00E1 = .sys 0x0E1 ∧ decode 0x00DF = .sys 0x0DF ∧ decode 0x00ED = .sys 0x0ED ∧ decode 0x00EF = .sys 0x0EF ∧
    decode 0x0000 = .sys 0x000 := by decide
/-- Ignored bits: V1.2, V1.4, V2.10, V4.2. -/
theorem test_decode_ignored_bits :
    decode 0x0FE0 = .cls ∧ decode 0x05EE = .ret ∧ decode 0x512F = .seVxVy 1 2 ∧ decode 0x9AB7 = .sneVxVy 10 11 := by decide
/-- Bytes in memory order, high byte first (R33), and the one rejection, by name. -/
theorem test_decode_bytes :
    decodeBytes [0x12, 0x34, 0x56] = .ok (.jp 0x234, [0x56]) ∧ decodeBytes [0x12] = .error .truncatedWord ∧
    decodeBytes [] = .error .truncatedWord := by
  refine ⟨by rfl, by rfl, by rfl⟩
/-- `decodeTableWord` on the table's own match words, and with its upper bits left out. -/
theorem test_decode_table_word :
    decodeTableWord 16 0xF065 = some (.ldVxMi 0) ∧ decodeTableWord 16 0x0000 = some (.sys 0) ∧
    decodeTableWord 8 0x12E0 = some .cls := by decide

/-! ### The output bus after each row -/

/-- The ports after a word is evaluated from reset. -/
def busAfter (w : Word) : Option DecodeOut :=
  match evalWord w State.reset with
  | .next t => some t.out
  | .fault _ => none
  | .refused _ => none

/-- What a decode vector of 95_test_vectors.md lists: op_id, mnem, nops, operand slots, opt2, raw, has_sub, sub. -/
structure Shown where
  opId : BitVec 6
  mnem : BitVec 5
  nops : BitVec 2
  slots : List (BitVec 4 × BitVec 16)
  opt2 : Bool
  raw : Bool
  hasSub : Bool
  sub : BitVec 8
  deriving DecidableEq, Repr

/-- The vector of a record. -/
def shown (d : DecodeOut) : Shown := ⟨d.opIdO, d.mnemO, d.nopsO, d.slots, d.opt2O, d.rawO, d.hasSubO, d.subO⟩

/-- V1.2: 0x0FE0. -/
theorem test_bus_cls : (busAfter 0x0FE0).map shown =
    some ⟨0, 0, 0, [(0, 0x0000), (0, 0x0000), (0, 0x0000)], false, false, true, 0xE0⟩ := by decide
/-- V1.4: 0x05EE. -/
theorem test_bus_ret : (busAfter 0x05EE).map shown =
    some ⟨1, 1, 0, [(0, 0x0000), (0, 0x0000), (0, 0x0000)], false, false, true, 0xEE⟩ := by decide
/-- V1.11: 0x0123. -/
theorem test_bus_sys : (busAfter 0x0123).map shown =
    some ⟨2, 2, 1, [(2, 0x0123), (0, 0x0000), (0, 0x0000)], false, false, true, 0x23⟩ := by decide
/-- V2.3: 0x1234. -/
theorem test_bus_jp : (busAfter 0x1234).map shown =
    some ⟨3, 3, 1, [(2, 0x0234), (0, 0x0000), (0, 0x0000)], false, false, false, 0x00⟩ := by decide
/-- V2.5: 0x2000. -/
theorem test_bus_call : (busAfter 0x2000).map shown =
    some ⟨4, 4, 1, [(2, 0x0000), (0, 0x0000), (0, 0x0000)], false, false, false, 0x00⟩ := by decide
/-- V2.7: 0x30FF. -/
theorem test_bus_seVxByte : (busAfter 0x30FF).map shown =
    some ⟨5, 5, 2, [(1, 0x0000), (3, 0x00FF), (0, 0x0000)], false, false, false, 0x00⟩ := by decide
/-- V2.8: 0x41FF. -/
theorem test_bus_sneVxByte : (busAfter 0x41FF).map shown =
    some ⟨6, 6, 2, [(1, 0x0001), (3, 0x00FF), (0, 0x0000)], false, false, false, 0x00⟩ := by decide
/-- V2.11: 0x5AA0. -/
theorem test_bus_seVxVy : (busAfter 0x5AA0).map shown =
    some ⟨7, 5, 2, [(1, 0x000A), (1, 0x000A), (0, 0x0000)], false, false, false, 0x00⟩ := by decide
/-- V2.13: 0x60AB. -/
theorem test_bus_ldVxByte : (busAfter 0x60AB).map shown =
    some ⟨8, 7, 2, [(1, 0x0000), (3, 0x00AB), (0, 0x0000)], false, false, false, 0x00⟩ := by decide
/-- V2.15: 0x7F01. -/
theorem test_bus_addVxByte : (busAfter 0x7F01).map shown =
    some ⟨9, 8, 2, [(1, 0x000F), (3, 0x0001), (0, 0x0000)], false, false, false, 0x00⟩ := by decide
/-- V3.1: 0x8AB0. -/
theorem test_bus_ldVxVy : (busAfter 0x8AB0).map shown =
    some ⟨10, 7, 2, [(1, 0x000A), (1, 0x000B), (0, 0x0000)], false, false, true, 0x00⟩ := by decide
/-- V3.2: 0x8121. -/
theorem test_bus_orVxVy : (busAfter 0x8121).map shown =
    some ⟨11, 9, 2, [(1, 0x0001), (1, 0x0002), (0, 0x0000)], false, false, true, 0x01⟩ := by decide
/-- V3.3: 0x8342. -/
theorem test_bus_andVxVy : (busAfter 0x8342).map shown =
    some ⟨12, 10, 2, [(1, 0x0003), (1, 0x0004), (0, 0x0000)], false, false, true, 0x02⟩ := by decide
/-- V3.4: 0x8123. -/
theorem test_bus_xorVxVy : (busAfter 0x8123).map shown =
    some ⟨13, 11, 2, [(1, 0x0001), (1, 0x0002), (0, 0x0000)], false, false, true, 0x03⟩ := by decide
/-- V3.5: 0x8FF4. -/
theorem test_bus_addVxVy : (busAfter 0x8FF4).map shown =
    some ⟨14, 8, 2, [(1, 0x000F), (1, 0x000F), (0, 0x0000)], false, false, true, 0x04⟩ := by decide
/-- V3.6: 0x8015. -/
theorem test_bus_subVxVy : (busAfter 0x8015).map shown =
    some ⟨15, 12, 2, [(1, 0x0000), (1, 0x0001), (0, 0x0000)], false, false, true, 0x05⟩ := by decide
/-- V3.7: 0x8AB6. -/
theorem test_bus_shrVxVy : (busAfter 0x8AB6).map shown =
    some ⟨16, 13, 2, [(1, 0x000A), (1, 0x000B), (0, 0x0000)], true, false, true, 0x06⟩ := by decide
/-- V3.8: 0x8C07. -/
theorem test_bus_subnVxVy : (busAfter 0x8C07).map shown =
    some ⟨17, 14, 2, [(1, 0x000C), (1, 0x0000), (0, 0x0000)], false, false, true, 0x07⟩ := by decide
/-- V3.9: 0x8ABE. -/
theorem test_bus_shlVxVy : (busAfter 0x8ABE).map shown =
    some ⟨18, 15, 2, [(1, 0x000A), (1, 0x000B), (0, 0x0000)], true, false, true, 0x0E⟩ := by decide
/-- V4.2: 0x9AB7. -/
theorem test_bus_sneVxVy : (busAfter 0x9AB7).map shown =
    some ⟨19, 6, 2, [(1, 0x000A), (1, 0x000B), (0, 0x0000)], false, false, false, 0x00⟩ := by decide
/-- V4.5: 0xAFFF. -/
theorem test_bus_ldIAddr : (busAfter 0xAFFF).map shown =
    some ⟨20, 7, 2, [(7, 0x0000), (2, 0x0FFF), (0, 0x0000)], false, false, false, 0x00⟩ := by decide
/-- V4.7: 0xBFFF. -/
theorem test_bus_ldV0Addr : (busAfter 0xBFFF).map shown =
    some ⟨21, 7, 2, [(1, 0x0000), (2, 0x0FFF), (0, 0x0000)], false, false, false, 0x00⟩ := by decide
/-- V4.9: 0xC000. -/
theorem test_bus_rndVxByte : (busAfter 0xC000).map shown =
    some ⟨22, 16, 2, [(1, 0x0000), (3, 0x0000), (0, 0x0000)], false, false, false, 0x00⟩ := by decide
/-- V4.11: 0xD120. -/
theorem test_bus_drwVxVyN : (busAfter 0xD120).map shown =
    some ⟨23, 17, 3, [(1, 0x0001), (1, 0x0002), (4, 0x0000)], false, false, false, 0x00⟩ := by decide
/-- V5.2: 0xEF9E. -/
theorem test_bus_skpVx : (busAfter 0xEF9E).map shown =
    some ⟨24, 18, 1, [(1, 0x000F), (0, 0x0000), (0, 0x0000)], false, false, true, 0x9E⟩ := by decide
/-- V5.6: 0xEFA1. -/
theorem test_bus_sknpVx : (busAfter 0xEFA1).map shown =
    some ⟨25, 19, 1, [(1, 0x000F), (0, 0x0000), (0, 0x0000)], false, false, true, 0xA1⟩ := by decide
/-- V6.1: 0xF307. -/
theorem test_bus_ldVxDt : (busAfter 0xF307).map shown =
    some ⟨26, 7, 2, [(1, 0x0003), (5, 0x0000), (0, 0x0000)], false, false, true, 0x07⟩ := by decide
/-- V6.2: 0xF50A. -/
theorem test_bus_ldVxKey : (busAfter 0xF50A).map shown =
    some ⟨27, 7, 2, [(1, 0x0005), (9, 0x0000), (0, 0x0000)], false, false, true, 0x0A⟩ := by decide
/-- V6.3: 0xF415. -/
theorem test_bus_ldDtVx : (busAfter 0xF415).map shown =
    some ⟨28, 7, 2, [(5, 0x0000), (1, 0x0004), (0, 0x0000)], false, false, true, 0x15⟩ := by decide
/-- V6.4: 0xF618. -/
theorem test_bus_ldStVx : (busAfter 0xF618).map shown =
    some ⟨29, 7, 2, [(6, 0x0000), (1, 0x0006), (0, 0x0000)], false, false, true, 0x18⟩ := by decide
/-- V6.5: 0xF71E. -/
theorem test_bus_addIVx : (busAfter 0xF71E).map shown =
    some ⟨30, 8, 2, [(7, 0x0000), (1, 0x0007), (0, 0x0000)], false, false, true, 0x1E⟩ := by decide
/-- V6.6: 0xF829. -/
theorem test_bus_ldCharVx : (busAfter 0xF829).map shown =
    some ⟨31, 7, 2, [(10, 0x0000), (1, 0x0008), (0, 0x0000)], false, false, true, 0x29⟩ := by decide
/-- V6.7: 0xF033. -/
theorem test_bus_ldBcdVx : (busAfter 0xF033).map shown =
    some ⟨32, 7, 2, [(11, 0x0000), (1, 0x0000), (0, 0x0000)], false, false, true, 0x33⟩ := by decide
/-- V6.8: 0xFF55. -/
theorem test_bus_ldMiVx : (busAfter 0xFF55).map shown =
    some ⟨33, 7, 2, [(8, 0x0000), (1, 0x000F), (0, 0x0000)], false, false, true, 0x55⟩ := by decide
/-- V6.9: 0xFF65. -/
theorem test_bus_ldVxMi : (busAfter 0xFF65).map shown =
    some ⟨34, 7, 2, [(1, 0x000F), (8, 0x0000), (0, 0x0000)], false, false, true, 0x65⟩ := by decide
/-- V6.17: 0xFFFF. -/
theorem test_bus_raw : (busAfter 0xFFFF).map shown =
    some ⟨35, 20, 1, [(12, 0xFFFF), (0, 0x0000), (0, 0x0000)], false, true, true, 0xFF⟩ := by decide

/-- The field ports of a record. -/
def fields (d : DecodeOut) : List Nat := [d.famO.toNat, d.xO.toNat, d.yO.toNat, d.nO.toNat, d.kkO.toNat, d.nnnO.toNat]

/-- The field ports of X3, X4 and X7. -/
theorem test_bus_fields :
    (busAfter 0x1234).map fields = some [0x1, 0x2, 0x3, 0x4, 0x34, 0x234] ∧
    (busAfter 0x8AB6).map fields = some [0x8, 0xA, 0xB, 0x6, 0xB6, 0xAB6] ∧
    (busAfter 0xDABF).map fields = some [0xD, 0xA, 0xB, 0xF, 0xBF, 0xABF] := by decide

/-! ### The reference renderer -/

/-- L1.6, L1.7, L1.8. -/
theorem test_render_source_examples :
    render (blockDecode 0x8123) = some "XOR V1, V2" ∧ render (blockDecode 0xF033) = some "LD _BCD_, V0" ∧
    render (blockDecode 0xE000) = some "0xe000" := by decide
/-- L1.4 and L1.5 (as corrected by C1) in pair form. -/
theorem test_pair_form :
    pairForm (blockDecode 0x1234) = some ("JP", ["0x234"]) ∧ pairForm (blockDecode 0x6A07) = some ("LD", ["V10", "0x7"]) := by
  decide
/-- V3.7 without its braces, which no string of this file may hold: the text up to the first brace (R122). -/
theorem test_render_braced :
    render (blockDecode 0x8AB6) = some ("SHR V10 " ++ openBrace ++ ", V11" ++ closeBrace) := by decide
/-- The listing line of program P2 at 0x20A (R125). -/
theorem test_listing_line : listingLine ⟨0x20A, blockDecode 0xB123⟩ = some "[0x20a]    LD V0, 0x123" := by decide
/-- A consumer refuses a mnemonic code that no result holds (R62, U4). -/
theorem test_render_refuses_unknown_code : render { blockDecode 0x1234 with mnemO := 21 } = none := by decide

/-! ### One step of the harness -/

/-- A run about to load `p`. -/
def fresh (p : List Byte) : State := State.reset.startRun (some p)

/-- The state after the load of `p`. -/
def loadedState (p : List Byte) : State := (fresh p).load

/-- The next state of a step, if there is one. -/
def nextOf (s : State) : Option State :=
  match step s with
  | .next t => some t
  | .fault _ => none
  | .refused _ => none

/-- The load of program P4: three bytes from 0x200 on (R30). -/
theorem test_step_load :
    (nextOf (fresh [0x60, 0xFF, 0xD1])).map (fun t => (t.mem, t.len, t.loaded, t.off, t.phase)) =
      some ([(0x200, 0x60), (0x201, 0xFF), (0x202, 0xD1)], 3, true, 0x200, .scan) := by decide
/-- H4: an input that does not exist. -/
theorem test_step_unavailable :
    (nextOf State.reset).map (fun t => (t.outcome, t.loaded, t.listing, t.phase)) =
      some (.inputUnavailable, false, [], .ended .loadFailed) := by decide
/-- P1: the first scan step lists CLS at 0x200. -/
theorem test_step_scan :
    (nextOf (loadedState [0x00, 0xE0, 0x12, 0x00])).map (fun t => (t.off, t.wordI, t.listing.map fun e => (e.offset, e.result.opIdO))) =
      some (0x202, 0x00E0, [(0x200, 0)]) := by decide
/-- P6: a leading zero word ends the scan at once. -/
theorem test_step_sentinel :
    (nextOf (loadedState [0x00, 0x00, 0x00, 0xE0])).map (fun t => (t.phase, t.listing, t.off)) =
      some (.ended .sentinel, [], 0x200) := by decide
/-- P5: an empty file ends by the bound. -/
theorem test_step_bound :
    (nextOf (loadedState [])).map (fun t => (t.phase, t.listing, t.off)) = some (.ended .bound, [], 0x200) := by decide
/-- A failed load has no scan (R129), and a step of it is refused by name. -/
theorem test_step_after_failed_load :
    step (State.reset.raise .capacityExceeded) = .refused (.scanNotLoaded .capacityExceeded) := by rfl
/-- A read outside `Mem` (R26), in a state that no run reaches (R36), faults by name. -/
theorem test_step_outside_memory :
    step { loadedState [] with len := 4096, off := 0x1000 } = .fault (.fetchOutsideMem 0x1000) := by rfl
/-- Memory is discarded when the scan ends, and the listing stays (R23). -/
theorem test_step_discards_memory :
    ((nextOf (loadedState [0x12, 0x34])).bind nextOf).map (fun t => (t.mem, t.phase, t.listing.length)) =
      some ([], .ended .bound, 1) := by decide
/-- A new run started after a word was driven finds the ports settled on that word (R158). -/
theorem test_drive_settles :
    ((State.reset.drive 0x1234).startRun (some [])).out.opIdO = 3 ∧ ((State.reset.drive 0x1234).startRun (some [])).wordI = 0x1234 := by
  decide
/-- The all-zero word is decoded next when it is placed, although the scan never presents it (R75, R134). -/
theorem test_placed_zero_word :
    (nextOf (State.reset.withFetchWord 16 0x0000)).map (fun t => (t.wordI, t.out.opIdO, t.out.v1O)) = some (0x0000, 2, 0x0000) := by
  decide
/-- A placed word is fetched from memory by the scan. -/
theorem test_placed_word :
    (nextOf (State.reset.withFetchWord 16 0xD015)).map (fun t => (t.wordI, t.out.opIdO, t.listing.length, t.off)) =
      some (0xD015, 23, 1, 0x202) := by decide

/-! ### Witnesses: for every statement with hypotheses, a state and operands that meet them all -/

/-- A sound state in which the loader is about to run on `p`. -/
theorem fresh_inv (p : List Byte) : (fresh p).Inv where
  memWf := by simp [fresh, Memory.wf, Memory.wfFrom]
  zeroOutside := by simp [fresh]
  lenBound := by simp [fresh]
  offLow := by simp [fresh]
  offEven := by simp [fresh, Config.base]
  offHigh := by simp [fresh]
  listingEq := by simp [fresh, listingOf, wordsPassed]
  passedNonzero := by simp [fresh, wordsPassed]
  notLoaded := by simp [fresh]
  atLoad := by simp [fresh]
  atScan := by simp [fresh]
  atEnd := by simp [fresh]
  atBound := by simp [fresh]
  atSentinel := by simp [fresh]
  atFailure := by simp [fresh]
  loadedInput := by simp [fresh]
  loadedOk := by simp [fresh]
  busSettled := by simp [fresh]

/-- A sound state after a failed load. -/
theorem failed_inv : ((fresh []).raise .inputUnavailable).Inv :=
  { fresh_inv [] with
    atLoad := by intro h; cases h
    atScan := by intro h; cases h
    atBound := by intro h; cases h
    atSentinel := by intro h; cases h
    atEnd := fun _ _ => rfl
    atFailure := fun _ => ⟨rfl, by decide⟩
    loadedInput := by intro h; cases h
    loadedOk := by intro h; cases h }

theorem loadedState_one (v : Byte) : loadedState [v] = (fresh [v]).loadBytes [v] :=
  load_fits (by simp [fresh]) (by simp [Config.maxLoad, Config.memSize, Config.base])

/-- A sound state in which the scan is about to run on one program byte. -/
theorem oneByte_inv (v : Byte) : (loadedState [v]).Inv := by
  rw [loadedState_one]
  exact
  { memWf := Memory.wf_writeBytes (m := []) rfl (by simp [Config.base, Config.memSize])
    zeroOutside := by
      intro a ha
      have h := Memory.read_writeBytes_outside [] Config.base [v] (b := a) ha
      simpa [State.loadBytes, fresh, Memory.read, Memory.unlisted] using h
    lenBound := by simp [State.loadBytes, fresh, Config.maxLoad, Config.memSize, Config.base]
    offLow := by simp [State.loadBytes, fresh]
    offEven := by simp [State.loadBytes, fresh, Config.base]
    offHigh := by simp [State.loadBytes, fresh]; omega
    listingEq := by simp [State.loadBytes, fresh, listingOf, wordsPassed]
    passedNonzero := by simp [State.loadBytes, fresh, wordsPassed]
    notLoaded := by simp [State.loadBytes, fresh]
    atLoad := by simp [State.loadBytes, fresh]
    atScan := by simp [State.loadBytes, fresh, State.programImage]
    atEnd := by simp [State.loadBytes, fresh]
    atBound := by simp [State.loadBytes, fresh]
    atSentinel := by simp [State.loadBytes, fresh]
    atFailure := by simp [State.loadBytes, fresh]
    loadedInput := by simp [State.loadBytes, fresh]
    loadedOk := by simp [State.loadBytes, fresh]
    busSettled := by simp [State.loadBytes, fresh] }

/-- EncodedInstructionDecodesBack: well-formed instructions of the two checked kinds, at the boundaries of the checks. -/
theorem witness_wellFormed :
    (Instr.sys 0x0DF).wellFormed = true ∧ (Instr.sys 0xFEF).wellFormed = true ∧ (Instr.raw 0x8008).wellFormed = true ∧
    (Instr.raw 0xFFFF).wellFormed = true ∧ (Instr.drwVxVyN 15 0 15).wellFormed = true := by decide

open Sys2Proof.Claims

/-- ExactlyTheIgnoredBitsDoNotMatter: two words that differ in ignored bits alone, in families 0 and 5. -/
theorem witness_ignored : decode 0x0FE0 = decode 0x00E0 ∧ decode 0x5ABF = decode 0x5AB0 := by decide

/-- FullyPopulatedFamiliesNeverFallBack: the families next to the three that can fall back. -/
theorem witness_fullyPopulated :
    (F 0x7FFF ≠ 0x8#4 ∧ F 0x7FFF ≠ 0xE#4 ∧ F 0x7FFF ≠ 0xF#4) ∧ (F 0x9000 ≠ 0x8#4 ∧ F 0x9000 ≠ 0xE#4 ∧ F 0x9000 ≠ 0xF#4) ∧
    (F 0xDFFF ≠ 0x8#4 ∧ F 0xDFFF ≠ 0xE#4 ∧ F 0xDFFF ≠ 0xF#4) := by decide

/-- ThirtySixResultsEachSelected, SameWordGivesSameOutputs, InputWordIsRecoverable: a word is evaluated, from two states, and
both a fallback word and a named one. -/
theorem witness_evalWord (w : Word) :
    (∃ t, evalWord w State.reset = .next t) ∧ ∃ t, evalWord w (loadedState [0x12]) = .next t := ⟨⟨_, evalWord_eq _ _⟩, ⟨_, evalWord_eq _ _⟩⟩

/-- FamilyZeroOutputs: each clause, and the boundary values of KK beside CLS and RET. -/
theorem witness_family0 :
    (F 0x0FE0 = 0x0#4 ∧ KK 0x0FE0 = 0xE0#8) ∧ (F 0x00EE = 0x0#4 ∧ KK 0x00EE = 0xEE#8) ∧
    (F 0x00E1 = 0x0#4 ∧ KK 0x00E1 ≠ 0xE0#8 ∧ KK 0x00E1 ≠ 0xEE#8) ∧ (F 0x0FED = 0x0#4 ∧ KK 0x0FED ≠ 0xE0#8 ∧ KK 0x0FED ≠ 0xEE#8) := by
  decide

/-- JumpAndCallOutputs, RegisterByteRowsOutputs, SkipOnRegistersOutputs, AddressLoadRowsOutputs, DrawOutputsThreeOperands: a
word of each family, with the operand fields at an end of their range. -/
theorem witness_singleRowFamilies :
    F 0x1000 = 0x1#4 ∧ F 0x2FFF = 0x2#4 ∧ F 0x3F00 = 0x3#4 ∧ F 0x40FF = 0x4#4 ∧ F 0x5FFF = 0x5#4 ∧ F 0x6000 = 0x6#4 ∧
    F 0x7FFF = 0x7#4 ∧ F 0x9000 = 0x9#4 ∧ F 0xAFFF = 0xA#4 ∧ F 0xB000 = 0xB#4 ∧ F 0xC0FF = 0xC#4 ∧ F 0xDFFF = 0xD#4 := by decide

/-- FamilyEightPlainRowsOutputs and ShiftRowsOutputsWithBracedOperand: each clause. -/
theorem witness_family8 :
    F 0x8FF0 = 0x8#4 ∧ N 0x8FF0 = 0x0#4 ∧ N 0x8001 = 0x1#4 ∧ N 0x8FF2 = 0x2#4 ∧ N 0x8003 = 0x3#4 ∧ N 0x8FF4 = 0x4#4 ∧
    N 0x8005 = 0x5#4 ∧ N 0x8FF6 = 0x6#4 ∧ N 0x8007 = 0x7#4 ∧ F 0x8FFE = 0x8#4 ∧ N 0x8FFE = 0xE#4 := by decide

/-- SkipOnKeyOutputs: each clause. -/
theorem witness_familyE :
    (F 0xEF9E = 0xE#4 ∧ KK 0xEF9E = 0x9E#8) ∧ (F 0xE0A1 = 0xE#4 ∧ KK 0xE0A1 = 0xA1#8) := by decide

/-- FamilyFifteenRowsOutputs: each clause. -/
theorem witness_familyF :
    F 0xFF07 = 0xF#4 ∧ KK 0xFF07 = 0x07#8 ∧ KK 0xF00A = 0x0A#8 ∧ KK 0xFF15 = 0x15#8 ∧ KK 0xF018 = 0x18#8 ∧ KK 0xFF1E = 0x1E#8 ∧
    KK 0xF029 = 0x29#8 ∧ KK 0xFF33 = 0x33#8 ∧ KK 0xF055 = 0x55#8 ∧ F 0xFF65 = 0xF#4 ∧ KK 0xFF65 = 0x65#8 := by decide

/-- FallbackOutputsTheWholeWord, and the fallback clause of RenderedLayout: each clause, at the values beside a named
sub-key. -/
theorem witness_fallback :
    (F 0x8008 = 0x8#4 ∧ N 0x8008 ∈ ([0x8, 0x9, 0xA, 0xB, 0xC, 0xD, 0xF] : List (BitVec 4))) ∧
    (F 0xE09D = 0xE#4 ∧ KK 0xE09D ≠ 0x9E#8 ∧ KK 0xE09D ≠ 0xA1#8) ∧ (F 0xF066 = 0xF#4 ∧ KK 0xF066 ∉ namedF) ∧
    (F 0x8FFF = 0x8#4 ∧ N 0x8FFF ∈ ([0x8, 0x9, 0xA, 0xB, 0xC, 0xD, 0xF] : List (BitVec 4))) := by decide

/-- ExtractorDrivesEveryFieldPort: each clause about the secondary selector. -/
theorem witness_subKeyFamilies :
    F 0x00E0 = 0x0#4 ∧ F 0xEF9E = 0xE#4 ∧ F 0xFF65 = 0xF#4 ∧ F 0x8ABE = 0x8#4 ∧
    (F 0x7E80 ≠ 0x0#4 ∧ F 0x7E80 ≠ 0x8#4 ∧ F 0x7E80 ≠ 0xE#4 ∧ F 0x7E80 ≠ 0xF#4) := by decide

/-- EmitWritesTheClassificationPorts: operand lists of the least and greatest length. -/
theorem witness_emit :
    ([] : List Operand).length ≤ 3 ∧ [Operand.vreg 15, Operand.vreg 0, Operand.nib4 15].length ≤ 3 := by decide

/-- SlotsFilledWithoutGapAndCounted, OptAndRawFlags, NoCodeWithoutMeaningIsProduced,
InstructionsChangeOnlyClassificationPorts: every instruction answers a next state. -/
theorem witness_exec (i : Instr) : ∃ t, exec i State.reset = .next t := ⟨_, exec_eq _ _⟩

/-- SelectionDependsOnFamilyAndSubKeyOnly: two words of family 8 with other operands, and two of family 0xF. -/
theorem witness_selection :
    (F 0x8123 = F 0x8FF3 ∧ N 0x8123 = N 0x8FF3) ∧ (F 0xF065 = F 0xFF65 ∧ KK 0xF065 = KK 0xFF65) ∧ F 0x1000 = F 0x1FFF := by decide

/-- MemoryWriteIsReadBack: canonical memory and the two ends of the address space. -/
theorem witness_memory : Memory.wf [(0x200, 0x12), (0xFFF, 0x01)] = true ∧ 0 < 4096 ∧ 0xFFF < 4096 := by decide

/-- LoadWritesTheInputAtBase and OversizedInputIsRejected: inputs of 0, 3584 and 3585 bytes (H1, H3). -/
theorem witness_load :
    ((fresh []).phase = .load ∧ (fresh []).mem.wf = true ∧ (fresh []).input = some [] ∧ ([] : List Byte).length ≤ 3584) ∧
    (∃ p : List Byte, (fresh p).input = some p ∧ p.length ≤ 3584 ∧ 3583 < p.length) ∧
    ∃ p : List Byte, (fresh p).phase = .load ∧ (fresh p).input = some p ∧ 3584 < p.length :=
  ⟨⟨rfl, rfl, rfl, by decide⟩, ⟨List.replicate 3584 0x12, rfl, by rw [List.length_replicate], by rw [List.length_replicate]; decide⟩,
    ⟨List.replicate 3585 0x12, rfl, rfl, by rw [List.length_replicate]; decide⟩⟩

/-- UnreadableInputIsReported. -/
theorem witness_unreadable : State.reset.phase = .load ∧ State.reset.input = none := ⟨rfl, rfl⟩

/-- NoScanAfterFailedLoad: a sound state after a failed load, and a scan asked for without a load. -/
theorem witness_failedLoad :
    (((fresh []).raise .inputUnavailable).Inv ∧ ((fresh []).raise .inputUnavailable).phase = .ended .loadFailed) ∧
    ({ State.reset with phase := .scan }.phase = .scan ∧ { State.reset with phase := .scan }.loaded = false) :=
  ⟨⟨failed_inv, rfl⟩, rfl, rfl⟩

/-- StepRunsTheDecodedInstruction and ScanStepAppendsTheDecodedWord: the scan stands on the word 0x1234; and a driven
block. -/
theorem witness_scan :
    ((loadedState [0x12, 0x34]).phase = .scan ∧ (loadedState [0x12, 0x34]).loaded = true ∧
      (loadedState [0x12, 0x34]).off < 0x200 + (loadedState [0x12, 0x34]).len ∧
      (loadedState [0x12, 0x34]).off + 1 < 4096 ∧ (loadedState [0x12, 0x34]).mem.wordAt 0x200 ≠ 0x0000#16 ∧
      (loadedState [0x12, 0x34]).mem.read 0x200 ≠ 0x00#8) ∧
    decodeBytes [(loadedState [0x12, 0x34]).mem.read 0x200, (loadedState [0x12, 0x34]).mem.read 0x201] = .ok (.jp 0x234, []) ∧
    (State.reset.drive 0x1234).phase = .driven := ⟨by decide, rfl, rfl⟩

/-- ScanStopsAtTheBound: `off` exactly at the end, for the empty program (P5). -/
theorem witness_bound :
    (loadedState []).phase = .scan ∧ (loadedState []).loaded = true ∧ 0x200 + (loadedState []).len ≤ (loadedState []).off := by decide

/-- ScanStopsAtTheSentinel: a leading zero word (P6); its first clause by a step that puts 0x1234 on the input. -/
theorem witness_sentinel :
    ((loadedState [0x00, 0x00]).phase = .scan ∧ (loadedState [0x00, 0x00]).loaded = true ∧
      (loadedState [0x00, 0x00]).off < 0x200 + (loadedState [0x00, 0x00]).len ∧ (loadedState [0x00, 0x00]).off + 1 < 4096 ∧
      (loadedState [0x00, 0x00]).mem.wordAt 0x200 = 0x0000#16) ∧
    (nextOf (loadedState [0x12, 0x34])).map (fun t => t.wordI) = some 0x1234 := by decide

/-- MemoryIsReadOnlyAfterLoad, ScanIsLinear, LoadThenScanThenEnd and the first clause of LoadWritesTheInputAtBase: a step from
a phase after the load. -/
theorem witness_afterLoad :
    (loadedState [0x12, 0x34]).phase ≠ .load ∧ (nextOf (loadedState [0x12, 0x34])).isSome = true ∧
    (nextOf (State.reset.endRun .bound)).isSome = true ∧ (nextOf (State.reset.drive 0x1234)).isSome = true ∧
    (nextOf State.reset).isSome = true := by decide

/-- OddTrailingByteIsScannedWithZeroLowByte: one byte, nonzero and zero. -/
theorem witness_odd (v : Byte) :
    (loadedState [v]).Inv ∧ (loadedState [v]).phase = .scan ∧ (loadedState [v]).len % 2 = 1 ∧
    (loadedState [v]).off + 1 = 0x200 + (loadedState [v]).len := ⟨oneByte_inv v, rfl, rfl, rfl⟩

/-- ListingOffsetsAndSize, NoReadLeavesTheAddressSpace, EveryRunEnds, RunRefinesTheScanLoop: a sound state in which the loader
is about to run on an input that fits. -/
theorem witness_soundFresh :
    (fresh [0x12, 0x34]).Inv ∧ (fresh [0x12, 0x34]).phase = .load ∧ (fresh [0x12, 0x34]).input = some [0x12, 0x34] ∧
    ([0x12, 0x34] : List Byte).length ≤ 3584 ∧
    (loadedState [0x12]).Inv ∧ (loadedState [0x12]).phase = .scan ∧ (loadedState [0x12]).off < 0x200 + (loadedState [0x12]).len :=
  ⟨fresh_inv _, rfl, rfl, by decide, oneByte_inv _, rfl, by decide⟩

/-- StepKeepsTheInvariant: a sound state whose step answers a next state, and one in which the scan is about to run. -/
theorem witness_soundStep :
    ((fresh [0x60]).Inv ∧ (nextOf (fresh [0x60])).isSome = true) ∧ ((loadedState [0x60]).Inv ∧ (nextOf (loadedState [0x60])).isSome = true) :=
  ⟨⟨fresh_inv _, by decide⟩, oneByte_inv _, by decide⟩

/-- NewRunForgetsTheOldOne, PlacedWordIsDecodedNext: settled ports, canonical memory. -/
theorem witness_settled :
    (loadedState [0x12]).out = blockDecode (loadedState [0x12]).wordI ∧ (loadedState [0x12]).mem.wf = true := ⟨rfl, by decide⟩

/-- RenderedLayout: a word for each family it speaks of; the named sub-keys are those of the witnesses above. -/
theorem witness_layout :
    InFallbackSpace 0x8008 ∧ (F 0x0FE0 = 0x0#4 ∧ KK 0x0FE0 = 0xE0#8) ∧ F 0x1000 = 0x1#4 ∧ F 0x6A07 = 0x6#4 ∧
    (F 0x8AB6 = 0x8#4 ∧ N 0x8AB6 = 0x6#4) ∧ F 0xDABF = 0xD#4 ∧ (F 0xEF9E = 0xE#4 ∧ KK 0xEF9E = 0x9E#8) ∧
    (F 0xF033 = 0xF#4 ∧ KK 0xF033 = 0x33#8) :=
  ⟨.inl (by decide), by decide, by decide, by decide, by decide, by decide, by decide, by decide⟩

/-- DrivenBlockSettles: a sound state. -/
theorem witness_driven : (fresh [0x12]).Inv := fresh_inv _

/-- DefaultFileNameIsBaseNameWithSuffix: a stem with a period in it, and an extension. -/
theorem witness_fileName :
    '/' ∉ "prog.v2".toList ∧ '/' ∉ "ch8".toList ∧ '.' ∉ "ch8".toList := by decide

/-- MemoryIsDiscardedAtRunEnd: a step of the loader, one by the sentinel and one by the bound end the run, and a sound state
after the end. -/
theorem witness_runEnd :
    (State.reset.phase = .load ∧ (nextOf State.reset).map (fun t => t.phase) = some (.ended .loadFailed)) ∧
    ((loadedState [0x00, 0x00]).phase = .scan ∧ (nextOf (loadedState [0x00, 0x00])).map (fun t => t.phase) = some (.ended .sentinel)) ∧
    ((loadedState []).phase = .scan ∧ (nextOf (loadedState [])).map (fun t => t.phase) = some (.ended .bound)) ∧
    (((fresh []).raise .inputUnavailable).Inv ∧ ((fresh []).raise .inputUnavailable).phase = .ended .loadFailed) :=
  ⟨by decide, by decide, by decide, failed_inv, rfl⟩

end Sys2Proof.Tests
end

section
/-! PROOFS. The statements of 00_scope.md: what an instruction leaves unchanged, and a write to memory. -/

namespace Sys2Proof.Proofs
open Sys2Proof.Machine

/-- Settles O30: the next state is `afterExec i s`, which keeps every field of `s` but the bus; and on the bus `emit`
leaves the extractor and secondary-selector ports as they are. -/
theorem instructionsChangeOnlyClassificationPorts : Obligations.InstructionsChangeOnlyClassificationPorts := by
  unfold Obligations.InstructionsChangeOnlyClassificationPorts
  intro i s t h
  obtain rfl := exec_next_inv h
  refine ⟨fun a => by rw [afterExec_mem], ?_⟩
  simp only [afterExec_mem, afterExec_wordI, afterExec_len, afterExec_loaded, afterExec_off, afterExec_listing,
    afterExec_outcome, afterExec_input, afterExec_phase, afterExec_out, emit_famO, emit_xO, emit_yO, emit_nO, emit_kkO,
    emit_nnnO, emit_hasSubO, emit_subO, and_self]

/-- Settles O32, by the three laws of a write: read back at its own address, no change at any other, and canonical
form kept inside the address space. -/
theorem memoryWriteIsReadBack : Obligations.MemoryWriteIsReadBack := by
  unfold Obligations.MemoryWriteIsReadBack
  intro m a v hwf ha
  exact ⟨Memory.read_write_same a v hwf, fun _ hne => Memory.read_write_other m v hne, Memory.wf_write v hwf ha⟩

end Sys2Proof.Proofs
end

section
/-! PROOFS. Evaluation refines `Decode` (R68, R69, R72): the arm that the two-level multiplexer selects for a word is the
one call of `Emit` that the decoded instruction makes, so the ports after an evaluation are `Decode` of the word. -/

namespace Sys2Proof.Machine

/-- The one call of `Emit` that an instruction makes (R67). -/
def emitOf (i : Instr) : DecodeOut → DecodeOut := emit i.row (mnemOf i) (operandsOf i) (optOf i)

theorem afterExec_out_eq_emitOf (i : Instr) (s : State) : (afterExec i s).out = emitOf i s.out := rfl

theorem family0Arm_eq (w : Word) : family0Arm w = emitOf (decodeFamily0 w) := by
  rw [decodeFamily0_eq]
  unfold family0Arm
  split_ifs <;> rfl

theorem family8Arm_eq (w : Word) : family8Arm w = emitOf (decodeFamily8 w) := by
  rw [decodeFamily8_eq]
  unfold family8Arm
  split_ifs <;> rfl

theorem familyEArm_eq (w : Word) : familyEArm w = emitOf (decodeFamilyE w) := by
  rw [decodeFamilyE_eq]
  unfold familyEArm
  split_ifs <;> rfl

theorem familyFArm_eq (w : Word) : familyFArm w = emitOf (decodeFamilyF w) := by
  rw [decodeFamilyF_eq]
  unfold familyFArm
  split_ifs <;> rfl

/-- The primary multiplexer selects the arm of the decoded instruction: by the value of F, a family of one row is that
row's `Emit`, and a family with a second level goes to its own multiplexer. -/
theorem primaryArm_eq_emitOf_decode (w : Word) : primaryArm w = emitOf (decode w) := by
  rcases fieldF_cases w with h | h | h | h | h | h | h | h | h | h | h | h | h | h | h | h
  · rw [primaryArm_family0 h, decode_family0 h, family0Arm_eq]
  · rw [primaryArm_family1 h, decode_family1 h]; rfl
  · rw [primaryArm_family2 h, decode_family2 h]; rfl
  · rw [primaryArm_family3 h, decode_family3 h]; rfl
  · rw [primaryArm_family4 h, decode_family4 h]; rfl
  · rw [primaryArm_family5 h, decode_family5 h]; rfl
  · rw [primaryArm_family6 h, decode_family6 h]; rfl
  · rw [primaryArm_family7 h, decode_family7 h]; rfl
  · rw [primaryArm_family8 h, decode_family8 h, family8Arm_eq]
  · rw [primaryArm_family9 h, decode_family9 h]; rfl
  · rw [primaryArm_familyA h, decode_familyA h]; rfl
  · rw [primaryArm_familyB h, decode_familyB h]; rfl
  · rw [primaryArm_familyC h, decode_familyC h]; rfl
  · rw [primaryArm_familyD h, decode_familyD h]; rfl
  · rw [primaryArm_familyE h, decode_familyE h, familyEArm_eq]
  · rw [primaryArm_familyF h, decode_familyF h, familyFArm_eq]

/-- Whatever stood on the ports before, an evaluation leaves `Decode` of its word there (R15, R16, R72). -/
@[simp] theorem afterEval_out (w : Word) (s : State) : (afterEval w s).out = blockDecode w :=
  calc (afterEval w s).out
    _ = emitOf (decode w) (driveFields w s.out) := afterExec_out_eq_emitOf (decode w) (s.present w)
    _ = emitOf (decode w) (driveFields w .blank) := emit_driveFields_indep ..
    _ = blockDecode w := by rw [blockDecode_eq, primaryArm_eq_emitOf_decode]

/-- What an evaluation that answers a next state has done. -/
theorem evalWord_next_inv {w : Word} {s t : State} (h : evalWord w s = .next t) : t = afterEval w s := exec_next_inv h

end Sys2Proof.Machine
end

section
/-! PROOFS. The invariant `State.Inv` along every operation of the harness: the start of a run, the two ends of the loader,
an evaluation, the record of an entry and the end of the scan. -/

namespace Sys2Proof.Machine

/-! ### The listing of the words passed (R130, R136) -/

@[simp] theorem wordsPassed_base : wordsPassed Config.base = 0 := rfl

theorem wordsPassed_add_two {off : Nat} (h : Config.base ≤ off) : wordsPassed (off + 2) = wordsPassed off + 1 := by
  unfold wordsPassed
  omega

/-- An even `off` in the program area is the offset of the next word to pass (R35, R136). -/
theorem scanOffset_wordsPassed {off : Nat} (h : Config.base ≤ off) (he : off % 2 = 0) :
    scanOffset (wordsPassed off) = off := by
  unfold scanOffset wordsPassed Config.base at *
  omega

@[simp] theorem listingOf_zero (m : Memory) : listingOf m 0 = [] := rfl

theorem listingOf_succ (m : Memory) (n : Nat) :
    listingOf m (n + 1) = listingOf m n ++ [⟨scanOffset n, blockDecode (m.wordAt (scanOffset n))⟩] := by
  simp [listingOf, List.range_succ]

/-! ### What the loader leaves in memory (R28, R30) -/

theorem State.programImage_eq {s : State} {p : List Byte} (h : s.input = some p) :
    s.programImage = Memory.writeBytes [] Config.base p := by
  simp [State.programImage, h]

/-! ### The operations -/

/-- A run starts sound where the ports are settled (R24, R158). -/
theorem State.inv_startRun {s : State} (input : Option (List Byte)) (hbus : s.out = blockDecode s.wordI) :
    (s.startRun input).Inv where
  memWf := rfl
  zeroOutside := by simp
  lenBound := by simp
  offLow := by simp
  offEven := by simp [Config.base]
  offHigh := by simp
  listingEq := by simp
  passedNonzero := by simp
  notLoaded := by simp
  atLoad := by simp
  atScan := by simp
  atEnd := by simp
  atBound := by simp
  atSentinel := by simp
  atFailure := by simp
  loadedInput := by simp
  loadedOk := by simp
  busSettled := hbus

namespace State.Inv
variable {s : State}

/-- A failed load writes nothing and ends the run with its error (R29, R31, R156). -/
theorem raise {o : HarnessOutcome} (h : s.Inv) (hp : s.phase = .load) (ho : o ≠ .ok) : (s.raise o).Inv :=
  have ⟨hl, _, _⟩ := h.atLoad hp
  { h with
    memWf := rfl
    zeroOutside := by simp
    atLoad := by simp
    atScan := by simp
    atEnd := by simp
    atBound := by simp
    atSentinel := by simp
    atFailure := fun _ => ⟨hl, ho⟩
    loadedOk := by simp [hl] }

/-- A load leaves the whole input in memory that was as allocated, and the scan at its start (R30, R131). -/
theorem loadBytes {p : List Byte} (h : s.Inv) (hp : s.phase = .load) (hin : s.input = some p)
    (hlen : p.length ≤ Config.maxLoad) : (s.loadBytes p).Inv :=
  have ⟨_, hok, hmem⟩ := h.atLoad hp
  have hfit : Config.base + p.length ≤ Config.memSize := by
    unfold Config.maxLoad Config.memSize Config.base at *; omega
  { memWf := Memory.wf_writeBytes h.memWf hfit
    zeroOutside := by
      intro a ha
      simp only [State.loadBytes_mem, hmem]
      exact Memory.read_writeBytes_outside [] Config.base p ha
    lenBound := hlen
    offLow := by simp
    offEven := by simp [Config.base]
    offHigh := by simp only [State.loadBytes_off]; omega
    listingEq := by simp
    passedNonzero := by simp
    notLoaded := by simp
    atLoad := by simp
    atScan := fun _ => ⟨rfl, by simp [State.programImage_eq (s := s.loadBytes p) hin, hmem]⟩
    atEnd := by simp
    atBound := by simp
    atSentinel := by simp
    atFailure := by simp
    loadedInput := fun _ => ⟨p, hin, rfl⟩
    loadedOk := fun _ => hok
    busSettled := h.busSettled }

/-- The loader keeps the invariant, whether it fails or loads. -/
theorem load (h : s.Inv) (hp : s.phase = .load) : s.load.Inv := by
  rcases load_cases s with ⟨o, ho, heq⟩ | ⟨p, hin, hlen, heq⟩
  · rw [heq]; exact h.raise hp ho
  · rw [heq]; exact h.loadBytes hp hin hlen

/-- An evaluation touches no harness state, and settles the ports on its word (R15, R158). -/
theorem afterEval (w : Word) (h : s.Inv) : (afterEval w s).Inv :=
  { h with busSettled := afterEval_out w s }

/-- The scan records the word it has fetched and presented (R135, R136): one word more is passed, and it is the one in the
loaded input, since memory is as the loader left it (R32). -/
theorem record (h : s.Inv) (hp : s.phase = .scan) (hf : s.fetch = .word s.wordI) : s.record.Inv := by
  obtain ⟨hl, hoff, -, hne, hw⟩ := fetch_word_iff.mp hf
  have hword : s.programImage.wordAt (scanOffset (wordsPassed s.off)) = s.wordI := by
    rw [scanOffset_wordsPassed h.offLow h.offEven, ← (h.atScan hp).2, hw]
  have hpassed : wordsPassed s.record.off = wordsPassed s.off + 1 := wordsPassed_add_two h.offLow
  exact
  { h with
    offLow := Nat.le_add_right_of_le h.offLow
    offEven := by simpa using h.offEven
    offHigh := by simp only [State.record_off, State.record_len]; omega
    listingEq := by
      change s.record.listing = listingOf s.programImage _
      rw [hpassed, listingOf_succ, hword, scanOffset_wordsPassed h.offLow h.offEven, ← h.listingEq, ← h.busSettled]
      rfl
    passedNonzero := by
      change ∀ k, k < _ → s.programImage.wordAt (scanOffset k) ≠ _
      intro k hk
      rcases Nat.lt_succ_iff_lt_or_eq.mp (hpassed ▸ hk) with hk | rfl
      · exact h.passedNonzero k hk
      · rwa [hword]
    notLoaded := by simp [hl]
    atBound := by simp [hp]
    atSentinel := by simp [hp] }

/-- The scan stops at the bound or on the sentinel of the loaded input, and memory is discarded (R23, R132, R134). -/
theorem endRun {r : StopReason} (h : s.Inv) (hp : s.phase = .scan) (hf : s.fetch = .stop r) : (s.endRun r).Inv := by
  obtain ⟨hl, hstop⟩ := fetch_stop_iff.mp hf
  exact
  { h with
    memWf := rfl
    zeroOutside := by simp
    atLoad := by simp
    atScan := by simp
    atEnd := by simp
    atBound := by
      intro hr
      obtain ⟨-, hoff⟩ | ⟨rfl, -⟩ := hstop
      · exact ⟨hl, hoff⟩
      · simp at hr
    atSentinel := by
      intro hr
      obtain ⟨rfl, -⟩ | ⟨-, hoff, -, hw⟩ := hstop
      · simp at hr
      · exact ⟨hl, hoff, (h.atScan hp).2 ▸ hw⟩
    atFailure := by
      intro hr
      obtain ⟨rfl, -⟩ | ⟨rfl, -⟩ := hstop <;> simp at hr }

/-- Every step keeps the invariant, by the operation that the step performs. -/
theorem step {t : State} (h : s.Inv) (hstep : step s = .next t) : t.Inv := by
  rcases step_cases hstep with ⟨hp, rfl⟩ | ⟨hp, w, hf, rfl⟩ | ⟨hp, r, hf, rfl⟩ | ⟨-, rfl⟩ | ⟨-, rfl⟩
  · exact h.load hp
  · exact (h.afterEval w).record hp hf
  · exact h.endRun hp hf
  · exact h.afterEval s.wordI
  · exact h

end State.Inv

/-- A step of the loader or the scan that ends the run either raises the loader's failure or ends the scan. -/
theorem step_end_cases {s t : State} {r : StopReason} (hp : s.phase = .load ∨ s.phase = .scan)
    (h : step s = .next t) (hr : t.phase = .ended r) : (∃ o, t = s.raise o) ∨ t = s.endRun r := by
  rcases step_cases h with ⟨-, rfl⟩ | ⟨hs, w, -, rfl⟩ | ⟨-, r', -, rfl⟩ | ⟨hd, -⟩ | ⟨he, -⟩
  · rcases load_cases s with ⟨o, -, heq⟩ | ⟨p, -, -, heq⟩
    · exact .inl ⟨o, heq⟩
    · simp [heq] at hr
  · simp [hs] at hr
  · obtain rfl : r' = r := by simpa using hr
    exact .inr rfl
  · simp [hd] at hp
  · rcases he with he | he <;> simp [he] at hp

end Sys2Proof.Machine
end

section
/-! PROOFS. The statements of 10_state.md: the block's outputs depend on its current word alone, and what the harness state
is at reset, along every step, at the end of a run and at the start of the next. -/

namespace Sys2Proof.Proofs
open Sys2Proof.Machine

/-- Settles O48: the invariant is kept by each of the operations that a step can perform. -/
theorem stepKeepsTheInvariant : Obligations.StepKeepsTheInvariant := by
  unfold Obligations.StepKeepsTheInvariant
  exact fun _ _ hinv hstep => hinv.step hstep

/-- Settles O26: both evaluations leave `Decode` of the word on the ports. -/
theorem sameWordGivesSameOutputs : Obligations.SameWordGivesSameOutputs := by
  unfold Obligations.SameWordGivesSameOutputs
  intro w s s' t t' h h'
  rw [evalWord_next_inv h, evalWord_next_inv h', afterEval_out, afterEval_out]

/-- Settles O52: the start of a run writes every field but the two wires, and leaves the ports settled. -/
theorem newRunForgetsTheOldOne : Obligations.NewRunForgetsTheOldOne := by
  unfold Obligations.NewRunForgetsTheOldOne
  exact fun s s' input => ⟨rfl, State.inv_startRun input⟩

/-- Settles O58: both ways in which the loader and the scan end a run discard memory and keep the listing, and in a sound
state an ended run holds no byte. -/
theorem memoryIsDiscardedAtRunEnd : Obligations.MemoryIsDiscardedAtRunEnd := by
  unfold Obligations.MemoryIsDiscardedAtRunEnd
  refine ⟨fun s t r hp hstep hr => ?_, fun s r hinv hr a => ?_⟩
  · obtain ⟨o, rfl⟩ | rfl := step_end_cases hp hstep hr
    · exact ⟨State.raise_mem s o, fun _ => rfl, State.raise_listing s o⟩
    · exact ⟨State.endRun_mem s r, fun _ => rfl, State.endRun_listing s r⟩
  · rw [hinv.atEnd r hr, Memory.read_nil]

/-- Settles O46: memory holds no byte at reset and at the start of a run, and the other items stand at their values. -/
theorem resetLeavesInitialHarnessState : Obligations.ResetLeavesInitialHarnessState := by
  unfold Obligations.ResetLeavesInitialHarnessState
  refine ⟨Memory.read_nil, State.reset_loaded, State.reset_off, State.reset_listing, State.reset_outcome, rfl, ?_⟩
  exact fun s input => ⟨Memory.read_nil, State.startRun_loaded s input, State.startRun_off s input,
    State.startRun_listing s input, State.startRun_outcome s input⟩

/-- Settles O47: reset is the start of a run without an input file, on ports settled at `Decode(0x0000)`. -/
theorem invariantHoldsAtReset : Obligations.InvariantHoldsAtReset :=
  State.inv_startRun (s := State.reset) none State.reset_out

end Sys2Proof.Proofs
end

section
/-! PROOFS. What the step of each phase answers, said forwards (R37), the scan of a sound state that always finds a word or
stops (R36), and the run of the scan as the loop of R130. -/

namespace Sys2Proof.Machine

/-! ### The step of each phase -/

theorem step_of_load {s : State} (hp : s.phase = .load) : step s = .next s.load := by simp [step, phaseStep, hp]

theorem step_of_fetch_word {s : State} {w : Word} (hp : s.phase = .scan) (hf : s.fetch = .word w) :
    step s = .next (afterEval w s).record := by simp [step, phaseStep, hp, scanStep, hf, evalWord_eq]

theorem step_of_fetch_stop {s : State} {r : StopReason} (hp : s.phase = .scan) (hf : s.fetch = .stop r) :
    step s = .next (s.endRun r) := by simp [step, phaseStep, hp, scanStep, hf]

theorem step_of_driven {s : State} (hp : s.phase = .driven) : step s = .next (afterEval s.wordI s) := by
  simp [step, phaseStep, hp, evalWord_eq]

theorem step_of_loadFailed {s : State} (hp : s.phase = .ended .loadFailed) :
    step s = .refused (.scanNotLoaded s.outcome) := by simp [step, phaseStep, hp, endedStep]

theorem step_of_scanned {s : State} (hp : s.phase = .ended .bound ∨ s.phase = .ended .sentinel) : step s = .next s := by
  rcases hp with hp | hp <;> simp [step, phaseStep, hp, endedStep]

/-! ### What a step leaves unchanged (R32) -/

/-- Only the loader sets `len`, `loaded` and `outcome`, and nothing sets the input. -/
theorem step_harness_after_load {s t : State} (hp : s.phase ≠ .load) (h : step s = .next t) :
    t.len = s.len ∧ t.loaded = s.loaded ∧ t.outcome = s.outcome ∧ t.input = s.input := by
  rcases step_cases h with ⟨hl, -⟩ | ⟨-, w, -, rfl⟩ | ⟨-, r, -, rfl⟩ | ⟨-, rfl⟩ | ⟨-, rfl⟩
  · exact absurd hl hp
  · simp
  · simp
  · simp
  · simp

/-- Only the loader, and the end of the scan, change memory. -/
theorem step_mem_after_load {s t : State} (hp : s.phase ≠ .load) (h : step s = .next t)
    (hgo : s.phase = .scan → t.phase = .scan) : t.mem = s.mem := by
  rcases step_cases h with ⟨hl, -⟩ | ⟨-, w, -, rfl⟩ | ⟨hs, r, -, rfl⟩ | ⟨-, rfl⟩ | ⟨-, rfl⟩
  · exact absurd hl hp
  · simp
  · exact absurd (hgo hs) (by simp)
  · simp
  · rfl

/-! ### The order of the phases (R37, R139) -/

theorem step_phase_of_load {s t : State} (h : step s = .next t) (hp : s.phase = .load) :
    t.phase = .scan ∨ t.phase = .ended .loadFailed := by
  obtain rfl : s.load = t := by simpa [step_of_load hp] using h
  rcases load_cases s with ⟨o, -, heq⟩ | ⟨p, -, -, heq⟩
  · exact .inr (by simp [heq])
  · exact .inl (by simp [heq])

theorem step_phase_of_scan {s t : State} (h : step s = .next t) (hp : s.phase = .scan) :
    t.phase = .scan ∨ t.phase = .ended .bound ∨ t.phase = .ended .sentinel := by
  rcases step_cases h with ⟨hl, -⟩ | ⟨-, w, -, rfl⟩ | ⟨-, r, hf, rfl⟩ | ⟨hd, -⟩ | ⟨he, -⟩
  · simp [hp] at hl
  · exact .inl (by simp [hp])
  · obtain ⟨-, ⟨rfl, -⟩ | ⟨rfl, -⟩⟩ := fetch_stop_iff.mp hf
    · exact .inr (.inl rfl)
    · exact .inr (.inr rfl)
  · simp [hp] at hd
  · simp [hp] at he

theorem step_of_ended {s t : State} {r : StopReason} (h : step s = .next t) (hp : s.phase = .ended r) : t = s := by
  cases r with
  | loadFailed => simp [step_of_loadFailed hp] at h
  | bound => simpa [step_of_scanned (.inl hp), eq_comm] using h
  | sentinel => simpa [step_of_scanned (.inr hp), eq_comm] using h

theorem step_phase_of_driven {s t : State} (h : step s = .next t) (hp : s.phase = .driven) : t.phase = .driven := by
  obtain rfl : afterEval s.wordI s = t := by simpa [step_of_driven hp] using h
  simpa using hp

/-- A step into an ended run leaves the wires, the counters and the listing as they are (log entries 11, 15 and 20). -/
theorem step_frame_of_ended {s t : State} {r : StopReason} (h : step s = .next t) (hr : t.phase = .ended r) :
    t.wordI = s.wordI ∧ t.out = s.out ∧ t.len = s.len ∧ t.loaded = s.loaded ∧ t.off = s.off ∧ t.listing = s.listing := by
  cases hs : s.phase with
  | load => rcases step_end_cases (.inl hs) h hr with ⟨o, rfl⟩ | rfl <;> simp
  | scan => rcases step_end_cases (.inr hs) h hr with ⟨o, rfl⟩ | rfl <;> simp
  | ended r' => simp [step_of_ended h hs]
  | driven => simp [step_phase_of_driven h hs] at hr

theorem dump_before_end {s : State} (path : String) (mode : OutputMode) (hp : s.phase = .load ∨ s.phase = .scan) :
    dump path mode s = none := by
  rcases hp with hp | hp <;> simp [dump, hp]

/-! ### No read leaves the address space (R36) -/

/-- While a word is left, both its bytes lie in memory: `off` is even, and the program ends with memory at the latest. -/
theorem State.Inv.off_le_of_lt {s : State} (h : s.Inv) (hoff : s.off < Config.base + s.len) : s.off ≤ 0xFFE := by
  have hlen := h.lenBound
  have heven := h.offEven
  simp only [Config.maxLoad, Config.memSize, Config.base] at hlen hoff
  omega

/-- The scan of a sound state fetches a word or stops. -/
theorem State.Inv.fetch_cases {s : State} (h : s.Inv) (hp : s.phase = .scan) :
    (∃ w, s.fetch = .word w) ∨ ∃ r, s.fetch = .stop r := by
  obtain ⟨hl, -⟩ := h.atScan hp
  by_cases hoff : s.off < Config.base + s.len
  · have hin : s.off + 1 < Config.memSize := Nat.lt_of_le_of_lt (Nat.succ_le_succ (h.off_le_of_lt hoff)) (by decide)
    by_cases hw : s.mem.wordAt s.off = 0x0000#16
    · exact .inr ⟨_, fetch_stop_iff.mpr ⟨hl, .inr ⟨rfl, hoff, hin, hw⟩⟩⟩
    · exact .inl ⟨_, fetch_word_iff.mpr ⟨hl, hoff, hin, hw, rfl⟩⟩
  · exact .inr ⟨_, fetch_stop_iff.mpr ⟨hl, .inl ⟨rfl, Nat.not_lt.mp hoff⟩⟩⟩

/-- A sound state has a next one, unless its load has failed. -/
theorem State.Inv.exists_next {s : State} (h : s.Inv) (hp : s.phase ≠ .ended .loadFailed) :
    ∃ t, Machine.step s = .next t := by
  cases hs : s.phase with
  | load => exact ⟨_, step_of_load hs⟩
  | scan =>
    rcases h.fetch_cases hs with ⟨w, hf⟩ | ⟨r, hf⟩
    · exact ⟨_, step_of_fetch_word hs hf⟩
    · exact ⟨_, step_of_fetch_stop hs hf⟩
  | ended r =>
    cases r with
    | loadFailed => exact absurd hs hp
    | bound => exact ⟨_, step_of_scanned (.inl hs)⟩
    | sentinel => exact ⟨_, step_of_scanned (.inr hs)⟩
  | driven => exact ⟨_, step_of_driven hs⟩

theorem State.Inv.step_ne_fault {s : State} (h : s.Inv) (f : Fault) : Machine.step s ≠ .fault f := by
  by_cases hp : s.phase = .ended .loadFailed
  · simp [step_of_loadFailed hp]
  · obtain ⟨t, ht⟩ := h.exists_next hp
    simp [ht]

/-! ### The run of the scan is the loop of R130 -/

theorem scanListing_of_fetch_stop {s : State} {r : StopReason} (hf : s.fetch = .stop r) (n : Nat) :
    scanListing s.mem s.len n s.off = [] := by
  cases n with
  | zero => rfl
  | succ n =>
    obtain ⟨-, ⟨-, hoff⟩ | ⟨-, -, -, hw⟩⟩ := fetch_stop_iff.mp hf
    · simp [scanListing, hoff]
    · simp [scanListing, hw]

theorem scanListing_of_fetch_word {s : State} {w : Word} (hf : s.fetch = .word w) (n : Nat) :
    scanListing s.mem s.len (n + 1) s.off = ⟨s.off, blockDecode w⟩ :: scanListing s.mem s.len n (s.off + 2) := by
  obtain ⟨-, hoff, -, hne, hw⟩ := fetch_word_iff.mp hf
  simp [scanListing, Nat.not_le.mpr hoff, hw, hne]

theorem run_of_step_self {s : State} (h : step s = .next s) (n : Nat) : Sys2Proof.core.run n s = .next s := by
  induction n with
  | zero => rfl
  | succ n ih => rw [run_succ_of_next h, ih]

/-- `n` steps of the scan append what `n` turns of the loop of R130 list; and where `n` turns pass the bound, which an odd
length lets `off` exceed by one (R138), the run has ended. -/
theorem State.Inv.run_scan {s : State} (h : s.Inv) (hp : s.phase = .scan) (n : Nat) :
    ∃ t, Sys2Proof.core.run n s = .next t ∧ t.outcome = s.outcome ∧
      t.listing = s.listing ++ scanListing s.mem s.len n s.off ∧
      (Config.base + s.len + 1 < s.off + 2 * n → t.phase = .ended .bound ∨ t.phase = .ended .sentinel) := by
  induction n generalizing s with
  | zero => exact ⟨s, rfl, rfl, by simp [scanListing], fun hn => absurd h.offHigh (by omega)⟩
  | succ n ih =>
    rcases h.fetch_cases hp with ⟨w, hf⟩ | ⟨r, hf⟩
    · have hstep := step_of_fetch_word hp hf
      obtain ⟨t, hrun, hout, hlist, hend⟩ := ih (s := (Machine.afterEval w s).record) (h.step hstep) hp
      refine ⟨t, by rw [run_succ_of_next hstep, hrun], hout, ?_, fun hn => hend ?_⟩
      · rw [hlist, scanListing_of_fetch_word hf]
        simp
      · simp only [State.record_len, State.record_off, afterEval_len, afterEval_off]
        omega
    · have hstep := step_of_fetch_stop hp hf
      have hphase : (s.endRun r).phase = .ended .bound ∨ (s.endRun r).phase = .ended .sentinel := by
        simpa using step_phase_of_scan hstep hp
      refine ⟨s.endRun r, ?_, rfl, by simp [scanListing_of_fetch_stop hf], fun _ => hphase⟩
      rw [run_succ_of_next hstep, run_of_step_self (step_of_scanned hphase)]

/-! ### A word placed in memory (log entry 8) -/

/-- A word written high byte first is the word read there (R33). -/
theorem Memory.wordAt_writeBytes {m : Memory} {a : Nat} (w : Word) (h : m.wf = true) (ha : a + 1 < Config.memSize) :
    (Memory.writeBytes m a [highByte w, lowByte w]).wordAt a = w := by
  have hread := Memory.read_writeBytes_inside (p := [highByte w, lowByte w]) h ha
  have hhi : Memory.read _ a = highByte w := hread 0 (by simp)
  have hlo : Memory.read _ (a + 1) = lowByte w := hread 1 (by simp)
  rw [Memory.wordAt, hhi, hlo, wordOfBytes_bytes]

theorem fetch_storeNext {s : State} {w : Word} (hwf : s.mem.wf = true) (hw : w ≠ 0x0000#16) (hoff : s.offInMem = true) :
    (s.storeNext w).fetch = .word w := by
  simp only [State.offInMem, inMem, Bool.and_eq_true, decide_eq_true_eq] at hoff
  obtain ⟨hlow, hin⟩ := hoff
  refine fetch_word_iff.mpr ⟨rfl, ?_, hin, hw, Memory.wordAt_writeBytes w hwf hin⟩
  simp only [State.storeNext_off, State.storeNext_len]
  omega

theorem step_drive (s : State) (w : Word) : step (s.drive w) = .next (afterEval w (s.drive w)) := step_of_driven rfl

/-- Wherever a word is placed, the next step puts it on the wire and its `Decode` on the ports. -/
theorem step_placeWord {s : State} (w : Word) (hwf : s.mem.wf = true) :
    ∃ t, step (s.placeWord w) = .next t ∧ t.wordI = w ∧ t.out = blockDecode w := by
  unfold State.placeWord
  split_ifs with hw hoff
  · exact ⟨_, step_drive s w, by simp, by simp⟩
  · exact ⟨_, step_of_fetch_word rfl (fetch_storeNext hwf hw hoff), by simp, by simp⟩
  · exact ⟨_, step_drive s w, by simp, by simp⟩

theorem ofNat_toNat_mod (w : Word) : BitVec.ofNat 16 (w.toNat % 2 ^ 16) = w := by
  rw [BitVec.toNat_mod_cancel, BitVec.ofNat_toNat, BitVec.setWidth_eq]

end Sys2Proof.Machine
end

section
/-! PROOFS. The statements of 20_memory.md: the byte order of a word, the loader and its two failures, memory read-only after
the load, no read outside the address space, and the run as the scan loop over the loaded input. -/

namespace Sys2Proof.Proofs
open Sys2Proof.Machine

/-- Settles O31: the two bytes of a word are those it was formed from. -/
theorem wordsAreBigEndian : Obligations.WordsAreBigEndian := by
  unfold Obligations.WordsAreBigEndian
  exact fun m a => ⟨highByte_wordOfBytes (m.read a) (m.read (a + 1)), lowByte_wordOfBytes (m.read a) (m.read (a + 1))⟩

/-- Settles O35: the loader raises the failure, and the step of a failed load is refused. -/
theorem unreadableInputIsReported : Obligations.UnreadableInputIsReported := by
  unfold Obligations.UnreadableInputIsReported
  intro s hp hin
  have hstep : step s = .next (s.raise .inputUnavailable) := by rw [step_of_load hp, load_unavailable hin]
  exact ⟨⟨_, hstep, rfl, rfl, rfl, rfl, step_of_loadFailed rfl⟩, rfl⟩

/-- Settles O34: on the one side of the capacity the loader raises the failure, on the other it loads. -/
theorem oversizedInputIsRejected : Obligations.OversizedInputIsRejected := by
  unfold Obligations.OversizedInputIsRejected
  intro s p hp hin
  refine ⟨fun hlen => ?_, fun hlen => ?_, rfl⟩
  · have hstep : step s = .next (s.raise .capacityExceeded) := by rw [step_of_load hp, load_oversized hin hlen]
    exact ⟨_, hstep, rfl, rfl, Memory.read_nil, rfl, rfl, rfl, step_of_loadFailed rfl⟩
  · exact ⟨_, step_of_load hp, by simp [load_fits hin hlen]⟩

/-- Settles O33: a fitting load is the loader's loop from `BASE`, whose writes stay inside the address space; and no other
phase changes memory but at the end of the scan. -/
theorem loadWritesTheInputAtBase : Obligations.LoadWritesTheInputAtBase := by
  unfold Obligations.LoadWritesTheInputAtBase
  refine ⟨fun s t hp hstep hgo a => by rw [step_mem_after_load hp hstep hgo], fun s p hp hwf hin hlen => ?_⟩
  have hstep : step s = .next (s.loadBytes p) := by rw [step_of_load hp, load_fits hin hlen]
  have hfit : Config.base + p.length ≤ Config.memSize := by unfold Config.base Config.memSize; omega
  exact ⟨_, hstep, Memory.read_writeBytes_inside hwf hfit, fun a => Memory.read_writeBytes_outside s.mem Config.base p,
    rfl, rfl, rfl, rfl, rfl, rfl, rfl⟩

/-- Settles O41, by what a step of another phase than the loader's leaves unchanged. -/
theorem memoryIsReadOnlyAfterLoad : Obligations.MemoryIsReadOnlyAfterLoad := by
  unfold Obligations.MemoryIsReadOnlyAfterLoad
  intro s t hp hstep
  obtain ⟨hlen, hloaded, houtcome, hinput⟩ := step_harness_after_load hp hstep
  refine ⟨fun hgo => ?_, houtcome, hinput⟩
  have hmem := step_mem_after_load hp hstep hgo
  exact ⟨fun a => by rw [hmem], hmem, hlen, hloaded⟩

/-- Settles O43: where the step of each phase goes, and what a step into an ended run leaves unchanged. -/
theorem loadThenScanThenEnd : Obligations.LoadThenScanThenEnd := by
  unfold Obligations.LoadThenScanThenEnd
  exact fun s t hstep => ⟨step_phase_of_load hstep, step_phase_of_scan hstep, fun _ => step_of_ended hstep,
    step_phase_of_driven hstep, fun _ => step_frame_of_ended hstep, dump_before_end⟩

/-- Settles O49: `off` is even and the program ends with memory, so the scan's reads stay inside. -/
theorem noReadLeavesTheAddressSpace : Obligations.NoReadLeavesTheAddressSpace := by
  unfold Obligations.NoReadLeavesTheAddressSpace
  refine fun s hinv => ⟨hinv.offEven, hinv.off_le_of_lt, hinv.step_ne_fault, fun hp => hinv.exists_next ?_⟩
  rcases hp with hp | hp <;> simp [hp]

/-- Settles O51: the first step loads the input, and the 1793 steps of the scan are as many turns of the loop of R130, which
pass the bound of the longest input that fits. -/
theorem runRefinesTheScanLoop : Obligations.RunRefinesTheScanLoop := by
  unfold Obligations.RunRefinesTheScanLoop
  intro s p hinv hp hin hlen
  obtain ⟨-, hok, hmem⟩ := hinv.atLoad hp
  have hstep : step s = .next (s.loadBytes p) := by rw [step_of_load hp, load_fits hin hlen]
  have hfit : Config.base + p.length ≤ Config.memSize := by unfold Config.base Config.memSize; omega
  obtain ⟨t, hrun, hout, hlist, hend⟩ := (hinv.step hstep).run_scan rfl 1793
  refine ⟨t, (s.loadBytes p).mem, by rw [run_succ_of_next hstep, hrun], hend ?_, by rw [hout, State.loadBytes_outcome, hok],
    Memory.read_writeBytes_inside hinv.memWf hfit, fun a ha => ?_, hlist⟩
  · simp only [State.loadBytes_len, State.loadBytes_off]
    omega
  · rw [State.loadBytes_mem, Memory.read_writeBytes_outside s.mem Config.base p ha, hmem, Memory.read_nil]

/-- Settles O53: the byte decoder reads the word's two bytes back, and the word is fetched from memory or read on the wire. -/
theorem placedWordIsDecodedNext : Obligations.PlacedWordIsDecodedNext := by
  unfold Obligations.PlacedWordIsDecodedNext
  intro s w hwf
  constructor
  · rw [decodeTableWord, ofNat_toNat_mod]
    simp [decodeBytes]
  · rw [State.withFetchWord, ofNat_toNat_mod]
    exact step_placeWord w hwf

end Sys2Proof.Proofs
end

section
/-! PROOFS. The round trip between words and instructions (R44, R47, R48): the packed words decode to the instructions they
stand for, the fallback words to themselves, and a decoded word is packed again but for the bits its row ignores. -/

namespace Sys2Proof
open Sys2Proof.Claims

/-! ### The fallback space (R50) -/

/-- The check of a fallback instruction's word is R50's list of the fallback space. -/
theorem isFallbackWord_iff (w : Word) : isFallbackWord w = true ↔ InFallbackSpace w := by
  simp [isFallbackWord, InFallbackSpace, namedF, or_assoc]

section
variable {w : Word}

theorem decodeFamily8_raw (h : fieldN w ∈ ([0x8, 0x9, 0xA, 0xB, 0xC, 0xD, 0xF] : List Nibble)) :
    decodeFamily8 w = .raw w := by
  simp only [List.mem_cons, List.not_mem_nil, or_false] at h
  rw [decodeFamily8_eq]
  rcases h with h | h | h | h | h | h | h <;> simp [h]

theorem decodeFamilyE_raw (h : fieldKK w ∉ ([0x9E, 0xA1] : List Byte)) : decodeFamilyE w = .raw w := by
  simp only [List.mem_cons, List.not_mem_nil, or_false, not_or] at h
  obtain ⟨hskp, hsknp⟩ := h
  exact (decodeFamilyE_eq w).trans ((if_neg hskp).trans (if_neg hsknp))

theorem decodeFamilyF_raw (h : fieldKK w ∉ namedF) : decodeFamilyF w = .raw w := by
  simp only [namedF, List.mem_cons, List.not_mem_nil, or_false, not_or, BitVec.ofNat_eq_ofNat] at h
  simp [decodeFamilyF_eq, h]

/-- Every word of the fallback space reaches a default arm (R92, R100, R110). -/
theorem decode_of_inFallbackSpace (h : InFallbackSpace w) : decode w = .raw w := by
  obtain ⟨hF, hN⟩ | ⟨hF, hKK⟩ | ⟨hF, hKK⟩ := h
  · rw [decode_family8 hF, decodeFamily8_raw hN]
  · rw [decode_familyE hF, decodeFamilyE_raw hKK]
  · rw [decode_familyF hF, decodeFamilyF_raw hKK]

end

/-! ### From an instruction to its word and back -/

section
variable (x y n : Nibble) (kk : Byte) (nnn : Addr12)

theorem decode_packXYN_family8 : decode (packXYN 0x8#4 x y n) = decodeFamily8 (packXYN 0x8#4 x y n) :=
  decode_family8 (fieldF_packXYN ..)

theorem decode_packXKK_familyE : decode (packXKK 0xE#4 x kk) = decodeFamilyE (packXKK 0xE#4 x kk) :=
  decode_familyE (fieldF_packXKK ..)

theorem decode_packXKK_familyF : decode (packXKK 0xF#4 x kk) = decodeFamilyF (packXKK 0xF#4 x kk) :=
  decode_familyF (fieldF_packXKK ..)

/-- An address whose low byte is neither CLS's nor RET's sub-key makes a SYS word (R75). -/
theorem decode_packNNN_sys (h : sysAddrOk nnn = true) : decode (packNNN 0x0#4 nnn) = .sys nnn := by
  simp only [sysAddrOk, Bool.and_eq_true, bne_iff_ne] at h
  obtain ⟨hcls, hret⟩ := h
  rw [decode_family0 (fieldF_packNNN 0x0#4 nnn), decodeFamily0_sys (by rwa [fieldKK_packNNN]) (by rwa [fieldKK_packNNN]),
    fieldNNN_packNNN]

end

/-- Packing the operands of a well-formed instruction and decoding the word gives the instruction back: the word has the
family and the sub-key of the instruction's row, and the fields packed into it. -/
theorem decode_encode {i : Instr} (h : i.wellFormed = true) : decode (encode i) = i := by
  cases i with
  | cls => decide
  | ret => decide
  | sys nnn => exact decode_packNNN_sys nnn h
  | jp nnn => simp [encode, decode_family1]
  | call nnn => simp [encode, decode_family2]
  | seVxByte x kk => simp [encode, decode_family3]
  | sneVxByte x kk => simp [encode, decode_family4]
  | seVxVy x y => simp [encode, decode_family5]
  | ldVxByte x kk => simp [encode, decode_family6]
  | addVxByte x kk => simp [encode, decode_family7]
  | ldVxVy x y => simp [encode, decode_packXYN_family8, decodeFamily8_eq]
  | orVxVy x y => simp [encode, decode_packXYN_family8, decodeFamily8_eq]
  | andVxVy x y => simp [encode, decode_packXYN_family8, decodeFamily8_eq]
  | xorVxVy x y => simp [encode, decode_packXYN_family8, decodeFamily8_eq]
  | addVxVy x y => simp [encode, decode_packXYN_family8, decodeFamily8_eq]
  | subVxVy x y => simp [encode, decode_packXYN_family8, decodeFamily8_eq]
  | shrVxVy x y => simp [encode, decode_packXYN_family8, decodeFamily8_eq]
  | subnVxVy x y => simp [encode, decode_packXYN_family8, decodeFamily8_eq]
  | shlVxVy x y => simp [encode, decode_packXYN_family8, decodeFamily8_eq]
  | sneVxVy x y => simp [encode, decode_family9]
  | ldIAddr nnn => simp [encode, decode_familyA]
  | ldV0Addr nnn => simp [encode, decode_familyB]
  | rndVxByte x kk => simp [encode, decode_familyC]
  | drwVxVyN x y n => simp [encode, decode_familyD]
  | skpVx x => simp [encode, decode_packXKK_familyE, decodeFamilyE_eq]
  | sknpVx x => simp [encode, decode_packXKK_familyE, decodeFamilyE_eq]
  | ldVxDt x => simp [encode, decode_packXKK_familyF, decodeFamilyF_eq]
  | ldVxKey x => simp [encode, decode_packXKK_familyF, decodeFamilyF_eq]
  | ldDtVx x => simp [encode, decode_packXKK_familyF, decodeFamilyF_eq]
  | ldStVx x => simp [encode, decode_packXKK_familyF, decodeFamilyF_eq]
  | addIVx x => simp [encode, decode_packXKK_familyF, decodeFamilyF_eq]
  | ldCharVx x => simp [encode, decode_packXKK_familyF, decodeFamilyF_eq]
  | ldBcdVx x => simp [encode, decode_packXKK_familyF, decodeFamilyF_eq]
  | ldMiVx x => simp [encode, decode_packXKK_familyF, decodeFamilyF_eq]
  | ldVxMi x => simp [encode, decode_packXKK_familyF, decodeFamilyF_eq]
  | raw w => exact decode_of_inFallbackSpace ((isFallbackWord_iff w).mp h)

/-- Decoding the two bytes of an instruction is decoding its word (R33). -/
theorem decodeBytes_encodeBytes (i : Instr) : decodeBytes (encodeBytes i) = .ok (decode (encode i), []) := by
  simp [encodeBytes, decodeBytes]

/-! ### From a word to its instruction and back -/

section
variable {w : Word} {f n : Nibble} {kk : Byte}

theorem packXYN_eq (hF : fieldF w = f) (hN : fieldN w = n) : packXYN f (fieldX w) (fieldY w) n = w := by
  rw [← hF, ← hN, packXYN_fields]

theorem packXKK_eq (hF : fieldF w = f) (hKK : fieldKK w = kk) : packXKK f (fieldX w) kk = w := by
  rw [← hF, ← hKK, packXKK_fields]

theorem packNNN_eq (hF : fieldF w = f) : packNNN f (fieldNNN w) = w := by
  rw [← hF, packNNN_fields]

/-- Clearing field X of a word, the bits that CLS and RET ignore. -/
theorem and_not_fieldX (hF : fieldF w = f) (hKK : fieldKK w = kk) :
    w &&& ~~~0x0F00#16 = (f.setWidth 16 <<< 12) ||| kk.setWidth 16 := by
  rw [← packXKK_eq hF hKK]
  exact (Laws.EncodesToRow.packXKK_masked f (fieldX w) kk).2

theorem packXYN_and_not_fieldN (f x y n : Nibble) : packXYN f x y n &&& ~~~0x000F#16 = packXYN f x y 0x0#4 := by
  have hf : (f.setWidth 16 <<< 12) &&& ~~~0x000F#16 = f.setWidth 16 <<< 12 := by revert f; decide
  have hx : (x.setWidth 16 <<< 8) &&& ~~~0x000F#16 = x.setWidth 16 <<< 8 := by revert x; decide
  have hy : (y.setWidth 16 <<< 4) &&& ~~~0x000F#16 = y.setWidth 16 <<< 4 := by revert y; decide
  have hn : n.setWidth 16 &&& ~~~0x000F#16 = (0x0#4).setWidth 16 := by revert n; decide
  simp only [packXYN, BitVec.and_or_distrib_right, hf, hx, hy, hn]

/-- Clearing field N of a word, the bits that the rows of families 5 and 9 ignore. -/
theorem and_not_fieldN (hF : fieldF w = f) : w &&& ~~~0x000F#16 = packXYN f (fieldX w) (fieldY w) 0x0#4 := by
  rw [← packXYN_and_not_fieldN f (fieldX w) (fieldY w) (fieldN w), packXYN_eq hF rfl]

end

theorem and_not_zero (w : Word) : w &&& ~~~0x0000#16 = w := BitVec.and_allOnes

/-- `i` stands for the word `w`: it is well-formed, and packing it gives `w` but for the bits its row ignores (R48). -/
def Instr.StandsFor (i : Instr) (w : Word) : Prop := i.wellFormed = true ∧ encode i = w &&& ~~~i.ignoredBits

/-- A row that ignores no bit stands for the word it is packed to. -/
theorem Instr.StandsFor.of_encode {i : Instr} {w : Word} (hwf : i.wellFormed = true) (hign : i.ignoredBits = 0x0000#16)
    (h : encode i = w) : i.StandsFor w :=
  ⟨hwf, by rw [hign, h, and_not_zero]⟩

/-- The fallback stands for a word of the fallback space. -/
theorem Instr.StandsFor.raw {w : Word} (h : InFallbackSpace w) : (Instr.raw w).StandsFor w :=
  .of_encode ((isFallbackWord_iff w).mpr h) rfl rfl

theorem Instr.StandsFor.ite {c : Prop} [Decidable c] {i j : Instr} {w : Word} (hpos : c → i.StandsFor w)
    (hneg : ¬c → j.StandsFor w) : (if c then i else j).StandsFor w := by
  split
  · exact hpos ‹_›
  · exact hneg ‹_›

section
variable {w : Word}
open Instr.StandsFor

theorem decodeFamily0_standsFor (hF : fieldF w = 0x0#4) : (decodeFamily0 w).StandsFor w := by
  rw [decodeFamily0_eq]
  refine ite (fun hcls => ⟨rfl, (and_not_fieldX hF hcls).symm⟩) fun hcls => ?_
  refine ite (fun hret => ⟨rfl, (and_not_fieldX hF hret).symm⟩) fun hret => ?_
  refine of_encode ?_ rfl (packNNN_eq hF)
  simp [Instr.wellFormed, sysAddrOk, fieldNNN_low, hcls, hret]

theorem decodeFamily8_standsFor (hF : fieldF w = 0x8#4) : (decodeFamily8 w).StandsFor w := by
  rw [decodeFamily8_eq]
  refine ite (fun h0 => of_encode rfl rfl (packXYN_eq hF h0)) fun h0 => ?_
  refine ite (fun h1 => of_encode rfl rfl (packXYN_eq hF h1)) fun h1 => ?_
  refine ite (fun h2 => of_encode rfl rfl (packXYN_eq hF h2)) fun h2 => ?_
  refine ite (fun h3 => of_encode rfl rfl (packXYN_eq hF h3)) fun h3 => ?_
  refine ite (fun h4 => of_encode rfl rfl (packXYN_eq hF h4)) fun h4 => ?_
  refine ite (fun h5 => of_encode rfl rfl (packXYN_eq hF h5)) fun h5 => ?_
  refine ite (fun h6 => of_encode rfl rfl (packXYN_eq hF h6)) fun h6 => ?_
  refine ite (fun h7 => of_encode rfl rfl (packXYN_eq hF h7)) fun h7 => ?_
  refine ite (fun hE => of_encode rfl rfl (packXYN_eq hF hE)) fun hE => ?_
  have hN : fieldN w ∈ ([0x8, 0x9, 0xA, 0xB, 0xC, 0xD, 0xF] : List Nibble) := by
    simpa [h0, h1, h2, h3, h4, h5, h6, h7, hE] using fieldN_cases w
  exact raw (.inl ⟨hF, hN⟩)

theorem decodeFamilyE_standsFor (hF : fieldF w = 0xE#4) : (decodeFamilyE w).StandsFor w := by
  rw [decodeFamilyE_eq]
  refine ite (fun hskp => of_encode rfl rfl (packXKK_eq hF hskp)) fun hskp => ?_
  refine ite (fun hsknp => of_encode rfl rfl (packXKK_eq hF hsknp)) fun hsknp => ?_
  have hKK : fieldKK w ∉ ([0x9E, 0xA1] : List Byte) := by simp [hskp, hsknp]
  exact raw (.inr (.inl ⟨hF, hKK⟩))

theorem decodeFamilyF_standsFor (hF : fieldF w = 0xF#4) : (decodeFamilyF w).StandsFor w := by
  rw [decodeFamilyF_eq]
  refine ite (fun h07 => of_encode rfl rfl (packXKK_eq hF h07)) fun h07 => ?_
  refine ite (fun h0A => of_encode rfl rfl (packXKK_eq hF h0A)) fun h0A => ?_
  refine ite (fun h15 => of_encode rfl rfl (packXKK_eq hF h15)) fun h15 => ?_
  refine ite (fun h18 => of_encode rfl rfl (packXKK_eq hF h18)) fun h18 => ?_
  refine ite (fun h1E => of_encode rfl rfl (packXKK_eq hF h1E)) fun h1E => ?_
  refine ite (fun h29 => of_encode rfl rfl (packXKK_eq hF h29)) fun h29 => ?_
  refine ite (fun h33 => of_encode rfl rfl (packXKK_eq hF h33)) fun h33 => ?_
  refine ite (fun h55 => of_encode rfl rfl (packXKK_eq hF h55)) fun h55 => ?_
  refine ite (fun h65 => of_encode rfl rfl (packXKK_eq hF h65)) fun h65 => ?_
  have hKK : fieldKK w ∉ namedF := by simp [namedF, h07, h0A, h15, h18, h1E, h29, h33, h55, h65]
  exact raw (.inr (.inr ⟨hF, hKK⟩))

/-- Whatever arm a word selects, the instruction decoded keeps the family, the sub-key and every field that its row does
not ignore. -/
theorem decode_standsFor (w : Word) : (decode w).StandsFor w := by
  rcases fieldF_cases w with h | h | h | h | h | h | h | h | h | h | h | h | h | h | h | h
  · rw [decode_family0 h]; exact decodeFamily0_standsFor h
  · rw [decode_family1 h]; exact of_encode rfl rfl (packNNN_eq h)
  · rw [decode_family2 h]; exact of_encode rfl rfl (packNNN_eq h)
  · rw [decode_family3 h]; exact of_encode rfl rfl (packXKK_eq h rfl)
  · rw [decode_family4 h]; exact of_encode rfl rfl (packXKK_eq h rfl)
  · rw [decode_family5 h]; exact ⟨rfl, (and_not_fieldN h).symm⟩
  · rw [decode_family6 h]; exact of_encode rfl rfl (packXKK_eq h rfl)
  · rw [decode_family7 h]; exact of_encode rfl rfl (packXKK_eq h rfl)
  · rw [decode_family8 h]; exact decodeFamily8_standsFor h
  · rw [decode_family9 h]; exact ⟨rfl, (and_not_fieldN h).symm⟩
  · rw [decode_familyA h]; exact of_encode rfl rfl (packNNN_eq h)
  · rw [decode_familyB h]; exact of_encode rfl rfl (packNNN_eq h)
  · rw [decode_familyC h]; exact of_encode rfl rfl (packXKK_eq h rfl)
  · rw [decode_familyD h]; exact of_encode rfl rfl (packXYN_eq h rfl)
  · rw [decode_familyE h]; exact decodeFamilyE_standsFor h
  · rw [decode_familyF h]; exact decodeFamilyF_standsFor h

end

theorem decode_wellFormed (w : Word) : (decode w).wellFormed = true := (decode_standsFor w).1

theorem encode_decode (w : Word) : encode (decode w) = w &&& ~~~(decode w).ignoredBits := (decode_standsFor w).2

/-- The fallback row has the constructor `raw` only. -/
theorem Instr.exists_eq_raw_of_row {i : Instr} (h : i.row = .raw) : ∃ v, i = .raw v := by
  cases i <;> cases h
  exact ⟨_, rfl⟩

/-- A word selects the fallback exactly in the fallback space (R50): there it is decoded to itself, and a fallback
instruction is well-formed and packed to the word it was decoded from. -/
theorem row_decode_eq_raw_iff (w : Word) : (decode w).row = .raw ↔ InFallbackSpace w := by
  refine ⟨fun hrow => ?_, fun h => by rw [decode_of_inFallbackSpace h]; rfl⟩
  obtain ⟨v, hv⟩ := Instr.exists_eq_raw_of_row hrow
  have hsf := decode_standsFor w
  rw [hv] at hsf
  obtain ⟨hwf, henc⟩ := hsf
  have hvw : v = w := henc.trans (and_not_zero w)
  exact hvw ▸ (isFallbackWord_iff v).mp hwf

end Sys2Proof
end

section
/-! PROOFS. Which row a word selects (R44, R47, R71): the row depends on the family and the sub-key alone, the opcode table
agrees with it, and the bits that no row tests are those of R48. -/

namespace Sys2Proof
open Sys2Proof.Machine

/-! ### The fields of a masked word -/

section
variable {w w' m : Word}

theorem fieldF_and (hm : fieldF m = 0xF#4) : fieldF (w &&& m) = fieldF w := by
  rw [fieldF, BitVec.extractLsb'_and]
  exact (congrArg (fieldF w &&& ·) hm).trans BitVec.and_allOnes

theorem fieldKK_and (hm : fieldKK m = 0xFF#8) : fieldKK (w &&& m) = fieldKK w := by
  rw [fieldKK, BitVec.extractLsb'_and]
  exact (congrArg (fieldKK w &&& ·) hm).trans BitVec.and_allOnes

theorem fieldX_and (hm : fieldX m = 0xF#4) : fieldX (w &&& m) = fieldX w := by
  rw [fieldX, BitVec.extractLsb'_and]
  exact (congrArg (fieldX w &&& ·) hm).trans BitVec.and_allOnes

theorem fieldY_and (hm : fieldY m = 0xF#4) : fieldY (w &&& m) = fieldY w := by
  rw [fieldY, BitVec.extractLsb'_and]
  exact (congrArg (fieldY w &&& ·) hm).trans BitVec.and_allOnes

theorem fieldN_and (hm : fieldN m = 0xF#4) : fieldN (w &&& m) = fieldN w := by
  rw [fieldN, BitVec.extractLsb'_and]
  exact (congrArg (fieldN w &&& ·) hm).trans BitVec.and_allOnes

/-! ### The row depends on the family and the sub-key alone (R71) -/

theorem subKey_eq_fieldKK (h : fieldF w = 0x0#4 ∨ fieldF w = 0xE#4 ∨ fieldF w = 0xF#4) : subKey w = some (fieldKK w) := by
  rcases h with h | h | h <;> simp [subKey, h]

theorem subKey_eq_fieldN (h : fieldF w = 0x8#4) : subKey w = some ((fieldN w).setWidth 8) := by simp [subKey, h]

theorem subKey_eq_none (hkk : ¬(fieldF w = 0x0#4 ∨ fieldF w = 0xE#4 ∨ fieldF w = 0xF#4)) (h8 : fieldF w ≠ 0x8#4) :
    subKey w = none := by
  simp only [not_or] at hkk
  obtain ⟨h0, hE, hF⟩ := hkk
  -- each arm but the default one is excluded by one of the four hypotheses
  simp [subKey]

/-- Words of one family with the same sub-key, if they have one, put the same value on the selector. -/
theorem subKey_congr (hF : fieldF w = fieldF w')
    (hKK : fieldF w = 0x0#4 ∨ fieldF w = 0xE#4 ∨ fieldF w = 0xF#4 → fieldKK w = fieldKK w')
    (hN : fieldF w = 0x8#4 → fieldN w = fieldN w') : subKey w = subKey w' := by
  by_cases hkk : fieldF w = 0x0#4 ∨ fieldF w = 0xE#4 ∨ fieldF w = 0xF#4
  · rw [subKey_eq_fieldKK hkk, subKey_eq_fieldKK (hF ▸ hkk), hKK hkk]
  by_cases h8 : fieldF w = 0x8#4
  · rw [subKey_eq_fieldN h8, subKey_eq_fieldN (hF ▸ h8), hN h8]
  · rw [subKey_eq_none hkk h8, subKey_eq_none (hF ▸ hkk) (hF ▸ h8)]

theorem fieldKK_eq_of_subKey_eq (h : fieldF w = 0x0#4 ∨ fieldF w = 0xE#4 ∨ fieldF w = 0xF#4) (hF : fieldF w = fieldF w')
    (hsub : subKey w = subKey w') : fieldKK w = fieldKK w' := by
  rw [subKey_eq_fieldKK h, subKey_eq_fieldKK (hF ▸ h)] at hsub
  exact Option.some.inj hsub

theorem fieldN_eq_of_subKey_eq (h : fieldF w = 0x8#4) (hF : fieldF w = fieldF w') (hsub : subKey w = subKey w') :
    fieldN w = fieldN w' := by
  rw [subKey_eq_fieldN h, subKey_eq_fieldN (hF ▸ h)] at hsub
  simpa using congrArg (BitVec.setWidth 4) (Option.some.inj hsub)

theorem row_decodeFamily0_congr (h : fieldKK w = fieldKK w') : (decodeFamily0 w).row = (decodeFamily0 w').row := by
  simp only [decodeFamily0_eq, apply_ite Instr.row, h]
  rfl

theorem row_decodeFamily8_congr (h : fieldN w = fieldN w') : (decodeFamily8 w).row = (decodeFamily8 w').row := by
  simp only [decodeFamily8_eq, apply_ite Instr.row, h]
  rfl

theorem row_decodeFamilyE_congr (h : fieldKK w = fieldKK w') : (decodeFamilyE w).row = (decodeFamilyE w').row := by
  simp only [decodeFamilyE_eq, apply_ite Instr.row, h]
  rfl

theorem row_decodeFamilyF_congr (h : fieldKK w = fieldKK w') : (decodeFamilyF w).row = (decodeFamilyF w').row := by
  simp only [decodeFamilyF_eq, apply_ite Instr.row, h]
  rfl

/-- The operand bits of a word never change which row it selects (R71). -/
theorem row_decode_congr (hF : fieldF w = fieldF w') (hsub : subKey w = subKey w') : (decode w).row = (decode w').row := by
  rcases fieldF_cases w with h | h | h | h | h | h | h | h | h | h | h | h | h | h | h | h <;> have h' := hF ▸ h
  · rw [decode_family0 h, decode_family0 h', row_decodeFamily0_congr (fieldKK_eq_of_subKey_eq (.inl h) hF hsub)]
  · rw [decode_family1 h, decode_family1 h']; rfl
  · rw [decode_family2 h, decode_family2 h']; rfl
  · rw [decode_family3 h, decode_family3 h']; rfl
  · rw [decode_family4 h, decode_family4 h']; rfl
  · rw [decode_family5 h, decode_family5 h']; rfl
  · rw [decode_family6 h, decode_family6 h']; rfl
  · rw [decode_family7 h, decode_family7 h']; rfl
  · rw [decode_family8 h, decode_family8 h', row_decodeFamily8_congr (fieldN_eq_of_subKey_eq h hF hsub)]
  · rw [decode_family9 h, decode_family9 h']; rfl
  · rw [decode_familyA h, decode_familyA h']; rfl
  · rw [decode_familyB h, decode_familyB h']; rfl
  · rw [decode_familyC h, decode_familyC h']; rfl
  · rw [decode_familyD h, decode_familyD h']; rfl
  · rw [decode_familyE h, decode_familyE h', row_decodeFamilyE_congr (fieldKK_eq_of_subKey_eq (.inr (.inl h)) hF hsub)]
  · rw [decode_familyF h, decode_familyF h', row_decodeFamilyF_congr (fieldKK_eq_of_subKey_eq (.inr (.inr h)) hF hsub)]

end

/-! ### The opcode table (R44) -/

/-- Every instruction's word has the pattern of its own row. -/
theorem Laws.EncodesToRow.holds : ∀ i : Instr, Statement i
  | .cls => cls
  | .ret => ret
  | .sys _ => sys _
  | .jp _ => jp _
  | .call _ => call _
  | .seVxByte _ _ => seVxByte _ _
  | .sneVxByte _ _ => sneVxByte _ _
  | .seVxVy _ _ => seVxVy _ _
  | .ldVxByte _ _ => ldVxByte _ _
  | .addVxByte _ _ => addVxByte _ _
  | .ldVxVy _ _ => ldVxVy _ _
  | .orVxVy _ _ => orVxVy _ _
  | .andVxVy _ _ => andVxVy _ _
  | .xorVxVy _ _ => xorVxVy _ _
  | .addVxVy _ _ => addVxVy _ _
  | .subVxVy _ _ => subVxVy _ _
  | .shrVxVy _ _ => shrVxVy _ _
  | .subnVxVy _ _ => subnVxVy _ _
  | .shlVxVy _ _ => shlVxVy _ _
  | .sneVxVy _ _ => sneVxVy _ _
  | .ldIAddr _ => ldIAddr _
  | .ldV0Addr _ => ldV0Addr _
  | .rndVxByte _ _ => rndVxByte _ _
  | .drwVxVyN _ _ _ => drwVxVyN _ _ _
  | .skpVx _ => skpVx _
  | .sknpVx _ => sknpVx _
  | .ldVxDt _ => ldVxDt _
  | .ldVxKey _ => ldVxKey _
  | .ldDtVx _ => ldDtVx _
  | .ldStVx _ => ldStVx _
  | .addIVx _ => addIVx _
  | .ldCharVx _ => ldCharVx _
  | .ldBcdVx _ => ldBcdVx _
  | .ldMiVx _ => ldMiVx _
  | .ldVxMi _ => ldVxMi _
  | .raw _ => raw _

/-- The table has one row for each row of the dispatch table, in the order of the codes (R51). -/
theorem opcodeTable_map_row : opcodeTable.map OpcodeRow.row = allRows := rfl

theorem allRows_nodup : allRows.Nodup := by decide

theorem mem_allRows (r : RowId) : r ∈ allRows := by cases r <;> decide

theorem exists_opcodeRow (r : RowId) : ∃ e ∈ opcodeTable, e.row = r :=
  List.mem_map.mp (opcodeTable_map_row ▸ mem_allRows r)

theorem opcodeRow_ext {e e' : OpcodeRow} (he : e ∈ opcodeTable) (he' : e' ∈ opcodeTable) (h : e.row = e'.row) : e = e' :=
  List.inj_on_of_nodup_map (opcodeTable_map_row ▸ allRows_nodup) he he' h

/-- SYS is the one row of priority 1 and the fallback the one of priority 0. -/
theorem opcodeRow_cases : ∀ e ∈ opcodeTable,
    e.priority = 2 ∨ e = ⟨.sys, 0x0000, 0xF000, 1⟩ ∨ e = ⟨.raw, 0x0000, 0x0000, 0⟩ := by decide

theorem row_ne_raw_of_priority : ∀ e ∈ opcodeTable, e.priority = 2 → e.row ≠ .raw := by decide

/-- Every row but the fallback is selected by its own pattern. -/
theorem row_decode_pattern : ∀ e ∈ opcodeTable, e.row ≠ .raw → (decode e.pattern).row = e.row := by decide

/-- Every row is selected by some word (R51). -/
theorem exists_word_of_row (r : RowId) : ∃ w, (decode w).row = r := by
  by_cases hraw : r = .raw
  · exact ⟨0x8008, hraw ▸ by decide⟩
  · obtain ⟨e, he, rfl⟩ := exists_opcodeRow r
    exact ⟨e.pattern, row_decode_pattern e he hraw⟩

/-- A row of priority 2 tests F, and the whole sub-key where its family has one. -/
theorem mask_tests_selector : ∀ e ∈ opcodeTable, e.priority = 2 → fieldF e.mask = 0xF#4 ∧
    (fieldF e.pattern = 0x0#4 ∨ fieldF e.pattern = 0xE#4 ∨ fieldF e.pattern = 0xF#4 → fieldKK e.mask = 0xFF#8) ∧
    (fieldF e.pattern = 0x8#4 → fieldN e.mask = 0xF#4) := by decide

/-- No row tests a bit that it ignores (R48). -/
theorem mask_and_not_ignoredBits {i : Instr} {e : OpcodeRow} (he : e ∈ opcodeTable) (h : e.row = i.row) :
    ~~~i.ignoredBits &&& e.mask = e.mask := by
  unfold Instr.ignoredBits
  rw [← h]
  clear h
  revert e
  decide

section
variable {w : Word} {e : OpcodeRow}

/-- A word that a row of priority 2 matches selects that row: it has the family and the sub-key of the row's pattern. -/
theorem row_decode_of_hits (he : e ∈ opcodeTable) (hp : e.priority = 2) (hit : e.hits w = true) : (decode w).row = e.row := by
  obtain ⟨hmF, hmKK, hmN⟩ := mask_tests_selector e he hp
  have hand : w &&& e.mask = e.pattern := by simpa [OpcodeRow.hits] using hit
  have hF : fieldF e.pattern = fieldF w := by rw [← hand, fieldF_and hmF]
  have hsub : subKey e.pattern = subKey w :=
    subKey_congr hF (fun h => by rw [← hand, fieldKK_and (hmKK h)]) (fun h => by rw [← hand, fieldN_and (hmN h)])
  rw [← row_decode_congr hF hsub, row_decode_pattern e he (row_ne_raw_of_priority e he hp)]

/-- The row a word selects matches it: the row's mask tests no ignored bit, and the instruction's own word is matched. -/
theorem hits_of_row_decode (he : e ∈ opcodeTable) (h : e.row = (decode w).row) : e.hits w = true := by
  have hit : e.hits (encode (decode w)) = true := Laws.EncodesToRow.holds (decode w) e he h
  rwa [encode_decode, OpcodeRow.hits, BitVec.and_assoc, mask_and_not_ignoredBits he h] at hit

/-- No row of as high a priority as the selected one matches a word but the selected one: of priority 2 it would itself be
selected, and a word that SYS matches is in family 0x0, which has no fallback word. -/
theorem row_eq_of_hits_of_priority_le {e' : OpcodeRow} (he : e ∈ opcodeTable) (hrow : e.row = (decode w).row)
    (he' : e' ∈ opcodeTable) (hit : e'.hits w = true) (hle : e.priority ≤ e'.priority) : e' = e := by
  obtain hp' | rfl | rfl := opcodeRow_cases e' he'
  · exact opcodeRow_ext he' he ((row_decode_of_hits he' hp' hit).symm.trans hrow.symm)
  · obtain hp | rfl | rfl := opcodeRow_cases e he
    · rw [hp] at hle; contradiction
    · rfl
    · have hF : fieldF w = 0x0#4 := by
        have hand : w &&& 0xF000#16 = 0x0000#16 := by simpa [OpcodeRow.hits] using hit
        rw [← fieldF_and (m := 0xF000#16) rfl, hand]; rfl
      obtain ⟨h, -⟩ | ⟨h, -⟩ | ⟨h, -⟩ := (row_decode_eq_raw_iff w).mp hrow.symm <;>
        exact absurd (hF.symm.trans h) (by decide)
  · obtain hp | rfl | rfl := opcodeRow_cases e he
    · rw [hp] at hle; contradiction
    · contradiction
    · rfl

/-- What R44's reading of the table finds at one priority. -/
def hitOfPriority (w : Word) (p : Nat) : Option OpcodeRow :=
  (opcodeTable.filter fun r => r.hits w).find? fun r => r.priority == p

theorem tableRow_eq (w : Word) :
    tableRow w = (hitOfPriority w 2 <|> hitOfPriority w 1 <|> hitOfPriority w 0).map OpcodeRow.row := rfl

theorem hitOfPriority_eq_some_imp {p : Nat} (h : hitOfPriority w p = some e) :
    e ∈ opcodeTable ∧ e.hits w = true ∧ e.priority = p := by
  obtain ⟨he, hit⟩ := List.mem_filter.mp (List.mem_of_find?_eq_some h)
  have hp : (e.priority == p) = true := List.find?_some (p := fun r : OpcodeRow => r.priority == p) h
  exact ⟨he, hit, beq_iff_eq.mp hp⟩

/-- At the priority of a row that matches, the reading finds it, where it is the only one. -/
theorem hitOfPriority_eq_some (he : e ∈ opcodeTable) (hit : e.hits w = true)
    (huniq : ∀ e' ∈ opcodeTable, e'.hits w = true → e'.priority = e.priority → e' = e) :
    hitOfPriority w e.priority = some e := by
  have hsome : (hitOfPriority w e.priority).isSome = true :=
    List.find?_isSome.mpr ⟨e, List.mem_filter.mpr ⟨he, hit⟩, beq_self_eq_true _⟩
  obtain ⟨e', hfind⟩ := Option.isSome_iff_exists.mp hsome
  obtain ⟨he', hit', hp'⟩ := hitOfPriority_eq_some_imp hfind
  rw [hfind, huniq e' he' hit' hp']

/-- R44's reading of the table gives a matching row that no other row of as high a priority matches. -/
theorem tableRow_eq_some (he : e ∈ opcodeTable) (hit : e.hits w = true)
    (hmax : ∀ e' ∈ opcodeTable, e'.hits w = true → e.priority ≤ e'.priority → e' = e) : tableRow w = some e.row := by
  have hfind := hitOfPriority_eq_some he hit fun e' he' hit' hp => hmax e' he' hit' hp.ge
  have hhigher : ∀ p, e.priority < p → hitOfPriority w p = none := by
    refine fun p hlt => Option.eq_none_iff_forall_ne_some.mpr fun e' hfind' => ?_
    obtain ⟨he', hit', rfl⟩ := hitOfPriority_eq_some_imp hfind'
    exact hlt.ne' (congrArg OpcodeRow.priority (hmax e' he' hit' hlt.le))
  have hp : e.priority = 2 ∨ e.priority = 1 ∨ e.priority = 0 := by
    obtain hp | rfl | rfl := opcodeRow_cases e he
    exacts [.inl hp, .inr (.inl rfl), .inr (.inr rfl)]
  rcases hp with hp | hp | hp <;> rw [hp] at hfind hhigher
  · simp [tableRow_eq, hfind]
  · simp [tableRow_eq, hfind, hhigher 2 (by decide)]
  · simp [tableRow_eq, hfind, hhigher 2 (by decide), hhigher 1 (by decide)]

/-- The multiplexer's row is the one that the table gives. -/
theorem tableRow_eq_row_decode (w : Word) : tableRow w = some (decode w).row := by
  obtain ⟨e, he, hrow⟩ := exists_opcodeRow (decode w).row
  rw [tableRow_eq_some he (hits_of_row_decode he hrow) fun e' => row_eq_of_hits_of_priority_le he hrow, hrow]

/-- Two rows of one priority differ in a bit that both test, so no word is matched by both. -/
theorem opcodeTable_disjoint :
    opcodeTable.Pairwise fun e e' => e.priority = e'.priority → e.pattern &&& e'.mask ≠ e'.pattern &&& e.mask := by decide

theorem not_hits_both {e' : OpcodeRow} (h : e.pattern &&& e'.mask ≠ e'.pattern &&& e.mask) (hit : e.hits w = true) :
    e'.hits w = false := by
  refine Bool.eq_false_iff.mpr fun hit' => h ?_
  simp only [OpcodeRow.hits, beq_iff_eq] at hit hit'
  rw [← hit, ← hit']
  ac_rfl

/-- Within one priority at most one row matches a word. -/
theorem length_hits_le_one (w : Word) (p : Nat) : (opcodeTable.filter fun r => r.hits w && r.priority == p).length ≤ 1 := by
  have hpair := opcodeTable_disjoint.filter fun r => r.hits w && r.priority == p
  have hmem : ∀ e ∈ opcodeTable.filter fun r => r.hits w && r.priority == p, e.hits w = true ∧ e.priority = p := by
    simp +contextual
  match hl : opcodeTable.filter fun r => r.hits w && r.priority == p with
  | [] => simp [hl]
  | [e] => simp [hl]
  | e :: e' :: l =>
    rw [hl] at hpair hmem
    obtain ⟨hit, hp⟩ := hmem e (by simp)
    obtain ⟨hit', hp'⟩ := hmem e' (by simp)
    have hdisj := List.rel_of_pairwise_cons hpair (a' := e') (by simp) (hp.trans hp'.symm)
    simp [not_hits_both hdisj hit] at hit'

end

end Sys2Proof
end

section
/-! PROOFS. The ignored bits (R48): which they are, and that two words decode to one instruction exactly when they differ in
ignored bits alone. -/

namespace Sys2Proof
open Sys2Proof.Machine

section
variable {w w' : Word}

theorem ignoredBits_decodeFamily0 (w : Word) :
    (decodeFamily0 w).ignoredBits = if fieldKK w = 0xE0#8 ∨ fieldKK w = 0xEE#8 then 0x0F00#16 else 0x0000#16 := by
  rw [decodeFamily0_eq]
  split_ifs <;> simp_all [Instr.ignoredBits, Instr.row]

theorem ignoredBits_decodeFamily8 (w : Word) : (decodeFamily8 w).ignoredBits = 0x0000#16 := by
  simp only [decodeFamily8_eq, apply_ite Instr.ignoredBits]
  simp only [Instr.ignoredBits, Instr.row, BitVec.ofNat_eq_ofNat, ite_self]

theorem ignoredBits_decodeFamilyE (w : Word) : (decodeFamilyE w).ignoredBits = 0x0000#16 := by
  simp only [decodeFamilyE_eq, apply_ite Instr.ignoredBits]
  simp only [Instr.ignoredBits, Instr.row, BitVec.ofNat_eq_ofNat, ite_self]

theorem ignoredBits_decodeFamilyF (w : Word) : (decodeFamilyF w).ignoredBits = 0x0000#16 := by
  simp only [decodeFamilyF_eq, apply_ite Instr.ignoredBits]
  simp only [Instr.ignoredBits, Instr.row, BitVec.ofNat_eq_ofNat, ite_self]

/-- X of CLS and RET words and N of family-5 and family-9 words are ignored, and no other bit (R48). -/
theorem ignoredBits_decode (w : Word) :
    (decode w).ignoredBits =
      if fieldF w = 0x0#4 ∧ (fieldKK w = 0xE0#8 ∨ fieldKK w = 0xEE#8) then 0x0F00#16
      else if fieldF w = 0x5#4 ∨ fieldF w = 0x9#4 then 0x000F#16 else 0x0000#16 := by
  rcases fieldF_cases w with h | h | h | h | h | h | h | h | h | h | h | h | h | h | h | h
  · simp [decode_family0 h, ignoredBits_decodeFamily0, h]
  · simp [decode_family1 h, Instr.ignoredBits, Instr.row, h]
  · simp [decode_family2 h, Instr.ignoredBits, Instr.row, h]
  · simp [decode_family3 h, Instr.ignoredBits, Instr.row, h]
  · simp [decode_family4 h, Instr.ignoredBits, Instr.row, h]
  · simp [decode_family5 h, Instr.ignoredBits, Instr.row, h]
  · simp [decode_family6 h, Instr.ignoredBits, Instr.row, h]
  · simp [decode_family7 h, Instr.ignoredBits, Instr.row, h]
  · simp [decode_family8 h, ignoredBits_decodeFamily8, h]
  · simp [decode_family9 h, Instr.ignoredBits, Instr.row, h]
  · simp [decode_familyA h, Instr.ignoredBits, Instr.row, h]
  · simp [decode_familyB h, Instr.ignoredBits, Instr.row, h]
  · simp [decode_familyC h, Instr.ignoredBits, Instr.row, h]
  · simp [decode_familyD h, Instr.ignoredBits, Instr.row, h]
  · simp [decode_familyE h, ignoredBits_decodeFamilyE, h]
  · simp [decode_familyF h, ignoredBits_decodeFamilyF, h]

/-- The rows that ignore a bit. -/
theorem Instr.ignoredBits_cases (i : Instr) : i.ignoredBits = 0x0000#16 ∨ i = .cls ∨ i = .ret ∨
    (∃ x y, i = .seVxVy x y) ∨ ∃ x y, i = .sneVxVy x y := by
  cases i <;> simp [Instr.ignoredBits, Instr.row]

/-- The fields of a word that is `f : x : y : 0` but for its field N. -/
theorem fields_of_packXYN_eq {f x y : Nibble} (h : packXYN f x y 0x0#4 = w &&& ~~~0x000F#16) :
    fieldF w = f ∧ fieldX w = x ∧ fieldY w = y :=
  ⟨by rw [← fieldF_and (m := ~~~0x000F#16) rfl, ← h, fieldF_packXYN],
   by rw [← fieldX_and (m := ~~~0x000F#16) rfl, ← h, fieldX_packXYN],
   by rw [← fieldY_and (m := ~~~0x000F#16) rfl, ← h, fieldY_packXYN]⟩

/-- A word is decoded to the only instruction that stands for it: the bits the instruction's row does not ignore are the
family, the sub-key and the operands. -/
theorem Instr.StandsFor.decode_eq {i : Instr} (h : i.StandsFor w) : decode w = i := by
  obtain ⟨hwf, henc⟩ := h
  obtain hign | rfl | rfl | ⟨x, y, rfl⟩ | ⟨x, y, rfl⟩ := i.ignoredBits_cases
  · rw [hign, and_not_zero] at henc
    rw [← henc, decode_encode hwf]
  · have hF : fieldF w = 0x0#4 := (fieldF_and rfl).symm.trans (congrArg fieldF henc.symm)
    have hKK : fieldKK w = 0xE0#8 := (fieldKK_and rfl).symm.trans (congrArg fieldKK henc.symm)
    simp [decode_family0 hF, decodeFamily0_eq, hKK]
  · have hF : fieldF w = 0x0#4 := (fieldF_and rfl).symm.trans (congrArg fieldF henc.symm)
    have hKK : fieldKK w = 0xEE#8 := (fieldKK_and rfl).symm.trans (congrArg fieldKK henc.symm)
    simp [decode_family0 hF, decodeFamily0_eq, hKK]
  · obtain ⟨hF, hX, hY⟩ := fields_of_packXYN_eq henc
    rw [decode_family5 hF, hX, hY]
  · obtain ⟨hF, hX, hY⟩ := fields_of_packXYN_eq henc
    rw [decode_family9 hF, hX, hY]

/-- Two words select the same instruction exactly when they differ in ignored bits alone (R48): where they agree on the
others, the instruction of the one stands for the other too. -/
theorem decode_eq_iff : decode w = decode w' ↔ w &&& ~~~(decode w).ignoredBits = w' &&& ~~~(decode w).ignoredBits := by
  constructor
  · intro h
    rw [← encode_decode, h, encode_decode]
  · intro h
    have hsf : (decode w).StandsFor w' := ⟨decode_wellFormed w, (encode_decode w).trans h⟩
    exact hsf.decode_eq.symm

/-- No row ignores a bit of the family. -/
theorem fieldF_not_ignoredBits (i : Instr) : fieldF (~~~i.ignoredBits) = 0xF#4 := by
  unfold Instr.ignoredBits
  split <;> rfl

/-- Words of one instruction are of one family and put the same value on the secondary selector: no row ignores a bit of
F or of the sub-key. -/
theorem selector_eq_of_decode_eq (h : decode w = decode w') : fieldF w = fieldF w' ∧ subKey w = subKey w' := by
  have hmask := decode_eq_iff.mp h
  have hF : fieldF w = fieldF w' := by
    rw [← fieldF_and (fieldF_not_ignoredBits (decode w)), hmask, fieldF_and (fieldF_not_ignoredBits _)]
  refine ⟨hF, subKey_congr hF (fun hkk => ?_) fun h8 => ?_⟩
  · have hm : fieldKK (~~~(decode w).ignoredBits) = 0xFF#8 := by
      have hne : ¬(fieldF w = 0x5#4 ∨ fieldF w = 0x9#4) := by rcases hkk with h | h | h <;> simp [h]
      rw [ignoredBits_decode, if_neg hne]
      split_ifs <;> rfl
    rw [← fieldKK_and hm, hmask, fieldKK_and hm]
  · have hm : fieldN (~~~(decode w).ignoredBits) = 0xF#4 := by
      rw [decode_family8 h8, ignoredBits_decodeFamily8]
      rfl
    rw [← fieldN_and hm, hmask, fieldN_and hm]

/-- Words of one instruction give the same output on every port but the six of the extractor (R48, R64). -/
theorem blockDecode_eq_of_decode_eq (h : decode w = decode w') :
    blockDecode w' = { blockDecode w with
      famO := fieldF w', xO := fieldX w', yO := fieldY w', nO := fieldN w', kkO := fieldKK w', nnnO := fieldNNN w' } := by
  obtain ⟨-, hsub⟩ := selector_eq_of_decode_eq h
  rw [blockDecode_eq, blockDecode_eq, primaryArm_eq_emitOf_decode, primaryArm_eq_emitOf_decode, h]
  simp only [emitOf, emit, driveFields, hsub]

end
end Sys2Proof
end

section
/-! PROOFS. How many words select the fallback (R50): which do depends on N or KK alone, which repeat along the addresses. -/

namespace Sys2Proof
open Sys2Proof.Claims

/-! ### Counting a predicate of the low bits -/

theorem ofNat_periodic (k : Nat) : Function.Periodic (BitVec.ofNat k) (2 ^ k) := fun n =>
  BitVec.eq_of_toNat_eq (by simp)

/-- A predicate of the low `k` bits holds `a` times as often below `a * 2 ^ k` as below `2 ^ k`. -/
theorem count_ofNat_mul (k : Nat) (q : BitVec k → Prop) [DecidablePred q] (a : Nat) :
    Nat.count (fun n => q (BitVec.ofNat k n)) (a * 2 ^ k) = a * Nat.count (fun n => q (BitVec.ofNat k n)) (2 ^ k) := by
  induction a with
  | zero => simp
  | succ a ih =>
    have hshift : ∀ n, BitVec.ofNat k (a * 2 ^ k + n) = BitVec.ofNat k n := fun n => by
      rw [Nat.add_comm]; exact (ofNat_periodic k).nat_mul a n
    rw [Nat.succ_mul, Nat.count_add, ih, Nat.succ_mul]
    simp only [hshift]

/-- Each of the listed values of the low `k` bits is taken once below `2 ^ k`. -/
theorem count_ofNat_mem {k : Nat} {l : List (BitVec k)} (h : l.Nodup) :
    Nat.count (fun n => BitVec.ofNat k n ∈ l) (2 ^ k) = l.length := by
  have himage : {n ∈ Finset.range (2 ^ k) | BitVec.ofNat k n ∈ l} = l.toFinset.image BitVec.toNat := by
    ext n
    simp only [Finset.mem_filter, Finset.mem_range, Finset.mem_image, List.mem_toFinset]
    constructor
    · rintro ⟨hn, hmem⟩
      exact ⟨_, hmem, by rw [BitVec.toNat_ofNat, Nat.mod_eq_of_lt hn]⟩
    · rintro ⟨v, hmem, rfl⟩
      exact ⟨v.isLt, by simpa using hmem⟩
  rw [Nat.count_eq_card_filter_range, himage, Finset.card_image_of_injective _ BitVec.toNat_injective,
    List.toFinset_card_of_nodup h]

/-- Each of the others too. -/
theorem count_ofNat_notMem {k : Nat} {l : List (BitVec k)} (h : l.Nodup) :
    Nat.count (fun n => BitVec.ofNat k n ∉ l) (2 ^ k) = 2 ^ k - l.length := by
  have hsum := List.length_eq_countP_add_countP (fun n => decide (BitVec.ofNat k n ∈ l)) (l := List.range (2 ^ k))
  simp only [decide_eq_true_eq, List.length_range] at hsum
  exact Nat.eq_sub_of_add_eq' ((congrArg (· + _) (count_ofNat_mem h)).symm.trans hsum.symm)

/-! ### The fallback words of a family -/

@[simp] theorem fieldN_packNNN (f : Nibble) (nnn : Addr12) : fieldN (packNNN f nnn) = nnn.extractLsb' 0 4 := by
  ext i hi; interval_cases i <;> simp [fieldN, packNNN]

theorem low_ofNat {k : Nat} (hk : k ≤ 12) (n : Nat) : (BitVec.ofNat 12 n).extractLsb' 0 k = BitVec.ofNat k n := by
  rw [← BitVec.setWidth_eq_extractLsb' hk, BitVec.setWidth_ofNat_of_le hk]

theorem inFallbackSpace_iff (w : Word) : InFallbackSpace w ↔
    (fieldF w = 0x8#4 ∧ fieldN w ∈ ([0x8, 0x9, 0xA, 0xB, 0xC, 0xD, 0xF] : List Nibble)) ∨
    (fieldF w = 0xE#4 ∧ fieldKK w ∉ ([0x9E, 0xA1] : List Byte)) ∨ (fieldF w = 0xF#4 ∧ fieldKK w ∉ namedF) := Iff.rfl

theorem inFallbackSpace_packNNN_iff (f : Nibble) (n : Nat) : InFallbackSpace (packNNN f (BitVec.ofNat 12 n)) ↔
    (f = 0x8#4 ∧ BitVec.ofNat 4 n ∈ ([0x8, 0x9, 0xA, 0xB, 0xC, 0xD, 0xF] : List Nibble)) ∨
    (f = 0xE#4 ∧ BitVec.ofNat 8 n ∉ ([0x9E, 0xA1] : List Byte)) ∨ (f = 0xF#4 ∧ BitVec.ofNat 8 n ∉ namedF) := by
  rw [inFallbackSpace_iff, fieldF_packNNN, fieldN_packNNN, fieldKK_packNNN, low_ofNat (by decide), low_ofNat (by decide)]

/-- The fallback words of a family, counted by their addresses. -/
theorem wordsOfRow_raw {f : Nibble} {p : Nat → Prop} [DecidablePred p]
    (h : ∀ n, InFallbackSpace (packNNN f (BitVec.ofNat 12 n)) ↔ p n) : wordsOfRow .raw f = Nat.count p 4096 :=
  List.countP_congr fun n _ => by simp only [decide_eq_true_eq, row_decode_eq_raw_iff, h]

theorem wordsOfRow_raw_family8 : wordsOfRow .raw 0x8#4 = 1792 :=
  calc wordsOfRow .raw 0x8#4
    _ = Nat.count (fun n => BitVec.ofNat 4 n ∈ ([0x8, 0x9, 0xA, 0xB, 0xC, 0xD, 0xF] : List Nibble)) 4096 :=
      wordsOfRow_raw fun n => by simp [inFallbackSpace_packNNN_iff]
    _ = 256 * 7 := by
      rw [show 4096 = 256 * 2 ^ 4 from rfl,
        count_ofNat_mul 4 (· ∈ ([0x8, 0x9, 0xA, 0xB, 0xC, 0xD, 0xF] : List Nibble)), count_ofNat_mem (by decide)]
      rfl

theorem wordsOfRow_raw_familyE : wordsOfRow .raw 0xE#4 = 4064 :=
  calc wordsOfRow .raw 0xE#4
    _ = Nat.count (fun n => BitVec.ofNat 8 n ∉ ([0x9E, 0xA1] : List Byte)) 4096 :=
      wordsOfRow_raw fun n => by simp [inFallbackSpace_packNNN_iff]
    _ = 16 * 254 := by
      rw [show 4096 = 16 * 2 ^ 8 from rfl,
        count_ofNat_mul 8 (· ∉ ([0x9E, 0xA1] : List Byte)), count_ofNat_notMem (by decide)]
      rfl

theorem wordsOfRow_raw_familyF : wordsOfRow .raw 0xF#4 = 3952 :=
  calc wordsOfRow .raw 0xF#4
    _ = Nat.count (fun n => BitVec.ofNat 8 n ∉ namedF) 4096 :=
      wordsOfRow_raw fun n => by simp [inFallbackSpace_packNNN_iff]
    _ = 16 * 247 := by
      rw [show 4096 = 16 * 2 ^ 8 from rfl,
        count_ofNat_mul 8 (· ∉ namedF), count_ofNat_notMem (by decide)]
      rfl

theorem wordsOfRow_raw_of_populated {f : Nibble} (h8 : f ≠ 0x8#4) (hE : f ≠ 0xE#4) (hF : f ≠ 0xF#4) :
    wordsOfRow .raw f = 0 := by
  rw [wordsOfRow_raw (p := fun _ => False) fun n => by simp [inFallbackSpace_packNNN_iff, h8, hE, hF]]
  exact Nat.count_false 4096

/-- The fallback words of all sixteen families. -/
theorem sum_wordsOfRow_raw : ((List.range 16).map fun f => wordsOfRow .raw (BitVec.ofNat 4 f)).sum = 9808 := by
  simp [List.range_succ, wordsOfRow_raw_of_populated, wordsOfRow_raw_family8, wordsOfRow_raw_familyE, wordsOfRow_raw_familyF]

end Sys2Proof
end

section
/-! PROOFS. The classification ports of every instruction (R55 to R62): the ranges of the codes, the two flags, and the
slots, which are the operands in order and then unused ones. -/

namespace Sys2Proof.Machine

/-! ### The codes (R55, R56, R57, R62) -/

theorem rowCode_lt (r : RowId) : (rowCode r).toNat < 36 := by cases r <;> decide

theorem mnemCode_lt (m : Mnem) : (mnemCode m).toNat < 21 := by cases m <;> decide

theorem kindCode_lt (k : Kind) : (kindCode k).toNat < 13 := by cases k <;> decide

/-- A code that can be read back is that of one row. -/
theorem rowCode_injective {r r' : RowId} (h : rowCode r = rowCode r') : r = r' := by
  simpa using congrArg rowOfCode h

theorem kindCode_eq_zero_iff {k : Kind} : kindCode k = 0 ↔ k = .none := by cases k <;> decide

theorem rowOfCode_eq_none_iff : ∀ c : BitVec 6, rowOfCode c = none ↔ 36 ≤ c.toNat := by decide

theorem mnemOfCode_eq_none_iff : ∀ c : BitVec 5, mnemOfCode c = none ↔ 21 ≤ c.toNat := by decide

theorem kindOfCode_eq_none_iff : ∀ c : BitVec 4, kindOfCode c = none ↔ 13 ≤ c.toNat := by decide

/-! ### The flags (R60, R61) -/

theorem rawFlag_eq_true_iff_code (r : RowId) : rawFlag r = true ↔ rowCode r = 35 := beq_iff_eq

theorem optOf_eq_true_iff (i : Instr) : optOf i = true ↔ i.row = .shrVxVy ∨ i.row = .shlVxVy := by
  cases i <;> simp [optOf, Instr.row]

/-! ### The slots (R58, R59) -/

/-- What a slot shows of an operand: its kind code and its value. -/
def Operand.pair (o : Operand) : BitVec 4 × Word := (kindCode o.kind, o.value)

/-- An operand as R58 has it: of a kind other than `NONE`, and without a value if its kind has none (codes 5 to 11). -/
def Operand.Proper (o : Operand) : Prop :=
  kindCode o.kind ≠ 0 ∧ (5 ≤ (kindCode o.kind).toNat → (kindCode o.kind).toNat ≤ 11 → o.value = 0x0000)

section
open Operand

theorem Operand.proper_of_valued {k : Kind} (hk : (kindCode k).toNat ∈ [1, 2, 3, 4, 12]) (v : Word) : Proper ⟨k, v⟩ := by
  refine ⟨fun h => ?_, fun h5 h11 => ?_⟩
  · rw [h] at hk; contradiction
  · simp only [List.mem_cons, List.not_mem_nil, or_false] at hk
    simp only at h5 h11
    omega

theorem Operand.proper_of_valueless {k : Kind} (hk : kindCode k ≠ 0) : Proper ⟨k, 0x0000⟩ := ⟨hk, fun _ _ => rfl⟩

@[simp] theorem Operand.vreg_proper (r : Nibble) : (vreg r).Proper := proper_of_valued (by decide) _
@[simp] theorem Operand.v0_proper : v0.Proper := proper_of_valued (by decide) _
@[simp] theorem Operand.addr12_proper (nnn : Addr12) : (addr12 nnn).Proper := proper_of_valued (by decide) _
@[simp] theorem Operand.byte_proper (kk : Byte) : (byte kk).Proper := proper_of_valued (by decide) _
@[simp] theorem Operand.nib4_proper (n : Nibble) : (nib4 n).Proper := proper_of_valued (by decide) _
@[simp] theorem Operand.word16_proper (w : Word) : (word16 w).Proper := proper_of_valued (by decide) _
@[simp] theorem Operand.dt_proper : dt.Proper := proper_of_valueless (by decide)
@[simp] theorem Operand.st_proper : st.Proper := proper_of_valueless (by decide)
@[simp] theorem Operand.i_proper : i.Proper := proper_of_valueless (by decide)
@[simp] theorem Operand.memI_proper : memI.Proper := proper_of_valueless (by decide)
@[simp] theorem Operand.key_proper : key.Proper := proper_of_valueless (by decide)
@[simp] theorem Operand.char_proper : char.Proper := proper_of_valueless (by decide)
@[simp] theorem Operand.bcd_proper : bcd.Proper := proper_of_valueless (by decide)

end

theorem operandsOf_proper (i : Instr) : ∀ o ∈ operandsOf i, o.Proper := by
  cases i <;> simp [operandsOf]

theorem operandCount_toNat {ops : List Operand} (h : ops.length ≤ 3) : (operandCount ops).toNat = ops.length := by
  rw [operandCount, BitVec.toNat_ofNat, Nat.mod_eq_of_lt (by omega)]

/-- The three slots for a list of operands: the operands in order, and unused ones after them. -/
def slotsOf (ops : List Operand) : List (BitVec 4 × Word) :=
  ops.map Operand.pair ++ List.replicate (3 - ops.length) Operand.unused.pair

section
variable {ops : List Operand}

theorem emit_slots (id : RowId) (m : Mnem) (opt : Bool) (d : DecodeOut) (h : ops.length ≤ 3) :
    (emit id m ops opt d).slots = slotsOf ops := by
  match ops, h with
  | [], _ => rfl
  | [_], _ => rfl
  | [_, _], _ => rfl
  | [_, _, _], _ => rfl

/-- The slots of a kind other than `NONE` are those of the operands. -/
theorem length_filter_slotsOf (h : ∀ o ∈ ops, o.Proper) :
    ((slotsOf ops).filter fun p => p.1 != 0).length = ops.length := by
  have hops : (ops.map Operand.pair).filter (fun p => p.1 != 0) = ops.map Operand.pair := by
    simp only [List.filter_eq_self, List.forall_mem_map]
    exact fun o ho => bne_iff_ne.mpr (h o ho).1
  rw [slotsOf, List.filter_append, hops, List.filter_replicate]
  simp [Operand.unused, Operand.pair, kindCode]

/-- Slot `k` shows operand `k`, or is unused from the last operand on. -/
theorem getElem?_slotsOf (hlen : ops.length ≤ 3) {k : Nat} (hk : k < 3) :
    (∃ o ∈ ops, k < ops.length ∧ (slotsOf ops)[k]? = some o.pair) ∨
    ops.length ≤ k ∧ (slotsOf ops)[k]? = some Operand.unused.pair := by
  by_cases hlt : k < ops.length
  · refine .inl ⟨ops[k], List.getElem_mem hlt, hlt, ?_⟩
    rw [slotsOf, List.getElem?_append_left (by simpa using hlt)]
    simp [hlt]
  · refine .inr ⟨by omega, ?_⟩
    rw [slotsOf, List.getElem?_append_right (by simpa using hlt), List.getElem?_replicate_of_lt (by simp; omega)]

end

end Sys2Proof.Machine
end

section
/-! PROOFS. The statements of 30_encoding.md: the round trip between words and instructions, the opcode table, the ignored bits,
the fallback space, and the codes, slots and flags that an instruction writes. -/

namespace Sys2Proof.Proofs
open Sys2Proof.Machine Sys2Proof.Claims

/-- Settles O1: by row, the word of a well-formed instruction selects that row and carries the operands in its fields. -/
theorem encodedInstructionDecodesBack : Obligations.EncodedInstructionDecodesBack := by
  unfold Obligations.EncodedInstructionDecodesBack
  exact fun i hwf => ⟨decode_encode hwf, by rw [decodeBytes_encodeBytes, decode_encode hwf]⟩

/-- Settles O2: the instruction that a word selects stands for the word. -/
theorem decodedWordEncodesBackUpToIgnoredBits : Obligations.DecodedWordEncodesBackUpToIgnoredBits := by
  unfold Obligations.DecodedWordEncodesBackUpToIgnoredBits
  exact fun w => ⟨decode_wellFormed w, encode_decode w⟩

/-- Settles O4: the selected row matches the word, and no other row of as high a priority does. -/
theorem opcodeTableAgreesWithMultiplexer : Obligations.OpcodeTableAgreesWithMultiplexer := by
  unfold Obligations.OpcodeTableAgreesWithMultiplexer
  exact fun w => ⟨tableRow_eq_row_decode w, length_hits_le_one w⟩

/-- Settles O5: the ignored bits by family, the only instruction that stands for a word, and the ports of one `Emit`. -/
theorem exactlyTheIgnoredBitsDoNotMatter : Obligations.ExactlyTheIgnoredBitsDoNotMatter := by
  unfold Obligations.ExactlyTheIgnoredBitsDoNotMatter
  exact ⟨ignoredBits_decode, fun _ _ => decode_eq_iff, fun _ _ => blockDecode_eq_of_decode_eq⟩

/-- Settles O6: no word outside families 0x8, 0xE and 0xF is in the fallback space. -/
theorem fullyPopulatedFamiliesNeverFallBack : Obligations.FullyPopulatedFamiliesNeverFallBack := by
  unfold Obligations.FullyPopulatedFamiliesNeverFallBack
  refine ⟨fun w h8 hE hF hraw => ?_, by decide⟩
  obtain ⟨h, -⟩ | ⟨h, -⟩ | ⟨h, -⟩ := (row_decode_eq_raw_iff w).mp hraw
  · exact h8 h
  · exact hE h
  · exact hF h

/-- Settles O7: the fallback space is the set of words that decode to themselves, and along the addresses of a family the
sub-key takes each of its values equally often. -/
theorem fallbackSpaceIsExactlyTheReservedWords : Obligations.FallbackSpaceIsExactlyTheReservedWords := by
  unfold Obligations.FallbackSpaceIsExactlyTheReservedWords
  exact ⟨row_decode_eq_raw_iff, wordsOfRow_raw_family8, wordsOfRow_raw_familyE, wordsOfRow_raw_familyF, sum_wordsOfRow_raw⟩

/-- Settles O8: a named row is selected by its own pattern in the opcode table, the fallback by 0x8008, and the code an
evaluation writes is read back as the row of the decoded instruction. -/
theorem thirtySixResultsEachSelected : Obligations.ThirtySixResultsEachSelected := by
  unfold Obligations.ThirtySixResultsEachSelected
  refine ⟨rfl, allRows_nodup, fun r => ⟨mem_allRows r, exists_word_of_row r⟩, fun _ _ => rowCode_injective, rowCode_lt,
    fun w s t h => ?_⟩
  obtain rfl := evalWord_next_inv h
  have hcode : rowCode (decode w).row = (afterEval w s).out.opIdO := rfl
  exact ⟨⟨(decode w).row, hcode, fun r hr => rowCode_injective (hr.trans hcode.symm)⟩, hcode⟩

/-- Settles O22: the slots of an instruction are its operands, each of a kind other than `NONE`, and unused ones after
them. -/
theorem slotsFilledWithoutGapAndCounted : Obligations.SlotsFilledWithoutGapAndCounted := by
  unfold Obligations.SlotsFilledWithoutGapAndCounted
  intro i s t h
  obtain rfl := exec_next_inv h
  have hlen := operandsOf_length i
  have hproper := operandsOf_proper i
  rw [afterExec_out, emit_nopsO, operandCount_toNat hlen, emit_slots _ _ _ _ hlen]
  refine ⟨(length_filter_slotsOf hproper).symm, fun k hk => ?_⟩
  obtain ⟨o, ho, hlt, hslot⟩ | ⟨hle, hslot⟩ := getElem?_slotsOf hlen hk
  · obtain ⟨hkind, hvalue⟩ := hproper o ho
    exact ⟨o.pair, hslot, fun hle => absurd hlt hle.not_gt, fun _ => hkind, hvalue⟩
  · exact ⟨unused, hslot, fun _ => rfl, fun hlt => absurd hlt hle.not_gt, fun _ _ => rfl⟩

/-- Settles O23: the flags of the one `Emit` of an instruction. -/
theorem optAndRawFlags : Obligations.OptAndRawFlags := by
  unfold Obligations.OptAndRawFlags
  intro i s t h
  obtain rfl := exec_next_inv h
  rw [afterExec_out, emit_opt2O, emit_rawO, emit_opIdO]
  exact ⟨optOf_eq_true_iff i, rawFlag_eq_true_iff_code i.row⟩

/-- Settles O24: an instruction writes codes of the tables only, and the codes of the tables are those below the reserved
ones. -/
theorem noCodeWithoutMeaningIsProduced : Obligations.NoCodeWithoutMeaningIsProduced := by
  unfold Obligations.NoCodeWithoutMeaningIsProduced
  refine ⟨fun i s t h => ?_, rowOfCode_eq_none_iff, mnemOfCode_eq_none_iff, kindOfCode_eq_none_iff⟩
  obtain rfl := exec_next_inv h
  rw [afterExec_out]
  exact ⟨rowCode_lt _, mnemCode_lt _, kindCode_lt _, kindCode_lt _, kindCode_lt _, rowOfCode_rowCode _⟩

end Sys2Proof.Proofs
end

section
/-! PROOFS. The ports after an evaluation (R64 to R69): the ports of `Decode` that the extractor drives, the slots that one
`Emit` fills, and a step of the scan as the run of the decoded instruction. -/

namespace Sys2Proof.Machine

/-! ### The ports of `Decode` that the extractor drives (R64, R65, R66) -/

section
variable (w : Word)

/-- `Decode` is the decoded instruction's one call of `Emit` on the ports that the extractor drives (R67, R68). -/
theorem blockDecode_eq_emitOf : blockDecode w = emitOf (decode w) (driveFields w .blank) := by
  rw [blockDecode_eq, primaryArm_eq_emitOf_decode]

@[simp] theorem blockDecode_famO : (blockDecode w).famO = fieldF w := by rw [blockDecode_eq_emitOf]; rfl
@[simp] theorem blockDecode_xO : (blockDecode w).xO = fieldX w := by rw [blockDecode_eq_emitOf]; rfl
@[simp] theorem blockDecode_yO : (blockDecode w).yO = fieldY w := by rw [blockDecode_eq_emitOf]; rfl
@[simp] theorem blockDecode_nO : (blockDecode w).nO = fieldN w := by rw [blockDecode_eq_emitOf]; rfl
@[simp] theorem blockDecode_kkO : (blockDecode w).kkO = fieldKK w := by rw [blockDecode_eq_emitOf]; rfl
@[simp] theorem blockDecode_nnnO : (blockDecode w).nnnO = fieldNNN w := by rw [blockDecode_eq_emitOf]; rfl
@[simp] theorem blockDecode_hasSubO : (blockDecode w).hasSubO = (subKey w).isSome := by rw [blockDecode_eq_emitOf]; rfl
@[simp] theorem blockDecode_subO : (blockDecode w).subO = (subKey w).getD 0x00 := by rw [blockDecode_eq_emitOf]; rfl

/-! ### The state after an evaluation (R72) -/

/-- An evaluation changes the two wires alone. -/
theorem afterEval_eq (s : State) : afterEval w s = { s with wordI := w, out := blockDecode w } :=
  congrArg (fun d => { s with wordI := w, out := d }) (afterEval_out w s)

end

/-! ### The slots that one `Emit` fills (R58, R67) -/

theorem emit_slots_getElem? (id : RowId) (m : Mnem) (ops : List Operand) (opt : Bool) (d : DecodeOut) {k : Nat}
    (hk : k < 3) : (emit id m ops opt d).slots[k]? = some (slot ops k).pair := by
  interval_cases k <;> rfl

theorem slot_eq_getD (ops : List Operand) (k : Nat) : slot ops k = ops[k]?.getD .unused := List.getD_eq_getElem?_getD

/-! ### A step of the scan (R130, R133, R134) -/

/-- A word is the sentinel exactly when both its bytes are zero (R33, R134). -/
theorem Memory.wordAt_eq_zero_iff {m : Memory} {a : Nat} :
    m.wordAt a = 0x0000#16 ↔ m.read a = 0x00#8 ∧ m.read (a + 1) = 0x00#8 := by
  refine ⟨fun h => ⟨?_, ?_⟩, fun ⟨hhi, hlo⟩ => ?_⟩
  · exact (highByte_wordOfBytes (m.read a) (m.read (a + 1))).symm.trans (congrArg highByte h)
  · exact (lowByte_wordOfBytes (m.read a) (m.read (a + 1))).symm.trans (congrArg lowByte h)
  · rw [Memory.wordAt, hhi, hlo]; rfl

/-- Two bytes of memory hold the instruction of their word, with nothing after it (R33, R40). -/
theorem eq_decode_of_decodeBytes {m : Memory} {a : Nat} {i : Instr}
    (h : decodeBytes [m.read a, m.read (a + 1)] = .ok (i, [])) : i = decode (m.wordAt a) := by
  injection h with h
  exact (congrArg Prod.fst h).symm

end Sys2Proof.Machine
end

section
/-! PROOFS. The statements of 40_extraction.md: the extractor's ports, the selection of a row, the refinement of `Decode` by the
machine's evaluation, what `Emit` writes, and the step as the run of the decoded instruction. -/

namespace Sys2Proof.Proofs
open Sys2Proof.Machine Sys2Proof.Claims

/-- Settles O28: an evaluation leaves `Decode` of the word on the ports and touches nothing but the two wires. -/
theorem evaluationRefinesDecode : Obligations.EvaluationRefinesDecode := by
  unfold Obligations.EvaluationRefinesDecode
  exact fun w s => by rw [evalWord_eq, afterEval_eq]

/-- Settles O20: the evaluation leaves `Decode` of the word on the ports, whose field ports are the word's fields and whose
selector ports are its sub-key, by family. -/
theorem extractorDrivesEveryFieldPort : Obligations.ExtractorDrivesEveryFieldPort := by
  unfold Obligations.ExtractorDrivesEveryFieldPort
  intro w s
  refine ⟨afterEval w s, evalWord_eq w s, afterEval_wordI w s, ?_⟩
  rw [afterEval_out, blockDecode_hasSubO, blockDecode_subO]
  refine ⟨blockDecode_famO w, blockDecode_xO w, blockDecode_yO w, blockDecode_nO w, blockDecode_kkO w, blockDecode_nnnO w,
    fun hkk => ?_, fun h8 => ?_, fun h0 h8 hE hF => ?_⟩
  · rw [subKey_eq_fieldKK hkk]; exact ⟨rfl, rfl⟩
  · rw [subKey_eq_fieldN h8]; exact ⟨rfl, rfl⟩
  · rw [subKey_eq_none (not_or.mpr ⟨h0, not_or.mpr ⟨hE, hF⟩⟩) h8]; exact ⟨rfl, rfl⟩

/-- Settles O25: such words have the same sub-key, and family and sub-key select the row. -/
theorem selectionDependsOnFamilyAndSubKeyOnly : Obligations.SelectionDependsOnFamilyAndSubKeyOnly := by
  unfold Obligations.SelectionDependsOnFamilyAndSubKeyOnly
  exact fun _ _ hF hKK hN => row_decode_congr hF (subKey_congr hF hKK hN)

/-- Settles O21: every instruction is the `Emit` of its row, mnemonic, operands and flag; and a port of `Emit` is by its
definition what it writes there, or the port before. -/
theorem emitWritesTheClassificationPorts : Obligations.EmitWritesTheClassificationPorts := by
  unfold Obligations.EmitWritesTheClassificationPorts
  refine ⟨fun i s => ⟨mnemOf i, operandsOf i, optOf i, operandsOf_length i, exec_eq i s⟩, fun id m ops opt d hlen => ?_⟩
  refine ⟨emit_opIdO .., emit_mnemO .., operandCount_toNat hlen, emit_opt2O .., rawFlag_eq_true_iff_code id, fun k hk => ?_,
    rfl, rfl, rfl, rfl, rfl, rfl, rfl, rfl⟩
  rw [emit_slots_getElem? id m ops opt d hk, slot_eq_getD]
  cases ops[k]? with
  | none => rfl
  | some o => rfl

/-- Settles O37: the two bytes at `off` are those of the word that the scan fetches, which is not the sentinel, and the step
is the evaluation of that word with the record after it; on a driven block it is the evaluation alone. -/
theorem stepRunsTheDecodedInstruction : Obligations.StepRunsTheDecodedInstruction := by
  unfold Obligations.StepRunsTheDecodedInstruction
  refine ⟨fun s i hp hl hoff hin hbytes hdec => ?_, fun s hp => (step_of_driven hp).trans (exec_eq _ _).symm⟩
  obtain rfl := eq_decode_of_decodeBytes hdec
  have hword : s.mem.wordAt s.off ≠ 0x0000#16 := fun h => not_and_or.mpr hbytes (Memory.wordAt_eq_zero_iff.mp h)
  have hfetch : s.fetch = .word (s.mem.wordAt s.off) := fetch_word_iff.mpr ⟨hl, hoff, hin, hword, rfl⟩
  refine ⟨decode_wellFormed _, ?_⟩
  rw [step_of_fetch_word hp hfetch, exec_eq]
  rfl

end Sys2Proof.Proofs
end

section
/-! PROOFS. What `exec` of an instruction writes to the output bus (R67), in the terms of the statements about outputs. -/

namespace Sys2Proof.Machine
open Sys2Proof.Claims

/-- Every instruction writes the codes of its row and mnemonic, its operands in order and its flags, and nothing else (R67).
The codes of R55 to R57 that a statement gives for an instruction are the values of the tables here. -/
theorem exec_writes (i : Instr) :
    Writes i (rowCode i.row) (mnemCode (mnemOf i)) (operandCount (operandsOf i)) (slot (operandsOf i) 0).pair
      (slot (operandsOf i) 1).pair (slot (operandsOf i) 2).pair (optOf i) (rawFlag i.row) :=
  exec_eq i

end Sys2Proof.Machine
end

section
/-! PROOFS. Family 0x0 (R73, R74, R75): the row that each sub-key selects, and how many words select each row. -/

namespace Sys2Proof
open Sys2Proof.Claims

/-! ### The words of family 0x0 -/

section
variable {w : Word}

theorem decodeFamily0_cls (h : fieldKK w = 0xE0#8) : decodeFamily0 w = .cls := by
  rw [decodeFamily0_eq, if_pos h]

theorem decodeFamily0_ret (h : fieldKK w = 0xEE#8) : decodeFamily0 w = .ret := by
  rw [decodeFamily0_eq, if_neg (by rw [h]; decide), if_pos h]

/-- KK of a word of family 0x0 names CLS, RET or neither. -/
theorem decodeFamily0_cases (w : Word) :
    fieldKK w = 0xE0#8 ∧ decodeFamily0 w = .cls ∨ fieldKK w = 0xEE#8 ∧ decodeFamily0 w = .ret ∨
    (fieldKK w ≠ 0xE0#8 ∧ fieldKK w ≠ 0xEE#8) ∧ decodeFamily0 w = .sys (fieldNNN w) := by
  by_cases hcls : fieldKK w = 0xE0#8
  · exact .inl ⟨hcls, decodeFamily0_cls hcls⟩
  by_cases hret : fieldKK w = 0xEE#8
  · exact .inr (.inl ⟨hret, decodeFamily0_ret hret⟩)
  · exact .inr (.inr ⟨⟨hcls, hret⟩, decodeFamily0_sys hcls hret⟩)

end

theorem row_decodeFamily0_eq_cls_iff (w : Word) : (decodeFamily0 w).row = .cls ↔ fieldKK w ∈ ([0xE0] : List Byte) := by
  obtain ⟨hKK, h⟩ | ⟨hKK, h⟩ | ⟨⟨hcls, -⟩, h⟩ := decodeFamily0_cases w
  · simp [h, hKK, Instr.row]
  · simp [h, hKK, Instr.row]
  · simp [h, hcls, Instr.row]

theorem row_decodeFamily0_eq_ret_iff (w : Word) : (decodeFamily0 w).row = .ret ↔ fieldKK w ∈ ([0xEE] : List Byte) := by
  obtain ⟨hKK, h⟩ | ⟨hKK, h⟩ | ⟨⟨-, hret⟩, h⟩ := decodeFamily0_cases w
  · simp [h, hKK, Instr.row]
  · simp [h, hKK, Instr.row]
  · simp [h, hret, Instr.row]

theorem row_decodeFamily0_eq_sys_iff (w : Word) :
    (decodeFamily0 w).row = .sys ↔ fieldKK w ∉ ([0xE0, 0xEE] : List Byte) := by
  obtain ⟨hKK, h⟩ | ⟨hKK, h⟩ | ⟨⟨hcls, hret⟩, h⟩ := decodeFamily0_cases w
  · simp [h, hKK, Instr.row]
  · simp [h, hKK, Instr.row]
  · simp [h, hcls, hret, Instr.row]

/-! ### How many words of family 0x0 select each row -/

/-- The sub-key of family 0x0 takes each of its values sixteen times along the addresses. -/
theorem wordsOfRow_family0 {r : RowId} {q : Byte → Prop} [DecidablePred q]
    (h : ∀ w, (decodeFamily0 w).row = r ↔ q (fieldKK w)) :
    wordsOfRow r 0x0#4 = 16 * Nat.count (fun n => q (BitVec.ofNat 8 n)) (2 ^ 8) :=
  calc wordsOfRow r 0x0#4
    _ = Nat.count (fun n => q (BitVec.ofNat 8 n)) 4096 := List.countP_congr fun n _ => by
      rw [decide_eq_true_eq, decide_eq_true_eq, decode_family0 (fieldF_packNNN ..), h, fieldKK_packNNN, low_ofNat (by decide)]
    _ = 16 * Nat.count (fun n => q (BitVec.ofNat 8 n)) (2 ^ 8) := by
      rw [show 4096 = 16 * 2 ^ 8 from rfl, count_ofNat_mul 8 q]

theorem wordsOfRow_cls : wordsOfRow .cls 0x0#4 = 16 := by
  rw [wordsOfRow_family0 row_decodeFamily0_eq_cls_iff, count_ofNat_mem (by decide)]
  rfl

theorem wordsOfRow_ret : wordsOfRow .ret 0x0#4 = 16 := by
  rw [wordsOfRow_family0 row_decodeFamily0_eq_ret_iff, count_ofNat_mem (by decide)]
  rfl

theorem wordsOfRow_sys : wordsOfRow .sys 0x0#4 = 4064 := by
  rw [wordsOfRow_family0 (q := (· ∉ ([0xE0, 0xEE] : List Byte))) row_decodeFamily0_eq_sys_iff, count_ofNat_notMem (by decide)]
  rfl

end Sys2Proof
end

section
/-! PROOFS. The statements of 41_family_0.md: words written out bit by bit, and the words and outputs of CLS, RET and SYS. -/

namespace Sys2Proof.Proofs
open Sys2Proof.Machine Sys2Proof.Claims

/-- Settles O3: the arm of each word's family; in families 0x0, 0x8, 0xE and 0xF the secondary multiplexer is evaluated at
the word. -/
theorem writtenOutWordsDecode : Obligations.WrittenOutWordsDecode := by
  unfold Obligations.WrittenOutWordsDecode
  exact ⟨decode_family0 rfl, decode_family1 rfl, decode_family6 rfl, decode_family8 rfl, decode_family8 rfl,
    decode_family8 rfl, decode_familyA rfl, decode_familyB rfl, decode_familyD rfl, decode_familyE rfl,
    decode_familyF rfl, decode_familyF rfl⟩

/-- Settles O9: the arm of family 0x0 for each sub-key, what `exec` of that arm's instruction writes, and how often the
sub-key takes each of its values. -/
theorem familyZeroOutputs : Obligations.FamilyZeroOutputs := by
  unfold Obligations.FamilyZeroOutputs
  refine ⟨fun w hF => ?_, wordsOfRow_cls, wordsOfRow_ret, wordsOfRow_sys⟩
  have hdecode : decode w = decodeFamily0 w := decode_family0 hF
  exact ⟨fun hcls => hdecode.trans (decodeFamily0_cls hcls), exec_writes .cls,
    fun hret => hdecode.trans (decodeFamily0_ret hret), exec_writes .ret,
    fun hcls hret => hdecode.trans (decodeFamily0_sys hcls hret), exec_writes (.sys (NNN w))⟩

end Sys2Proof.Proofs
end

section
/-! PROOFS. The statements of 42_families_1_to_7.md: the families with one row each. The family alone selects the row, so each
clause is the arm of its family and what `exec` of the arm's instruction writes. -/

namespace Sys2Proof.Proofs
open Sys2Proof.Machine Sys2Proof.Claims

/-- Settles O10: the arms of families 0x1 and 0x2, and what `exec` of JP and CALL writes. -/
theorem jumpAndCallOutputs : Obligations.JumpAndCallOutputs := by
  unfold Obligations.JumpAndCallOutputs
  refine fun w => ⟨fun hjp => ?_, fun hcall => ?_⟩
  · exact ⟨decode_family1 hjp, exec_writes (.jp (NNN w))⟩
  · exact ⟨decode_family2 hcall, exec_writes (.call (NNN w))⟩

/-- Settles O11: the arms of families 0x3, 0x4, 0x6, 0x7 and 0xC, and what `exec` of each arm's instruction writes. -/
theorem registerByteRowsOutputs : Obligations.RegisterByteRowsOutputs := by
  unfold Obligations.RegisterByteRowsOutputs
  refine fun w => ⟨fun hse => ?_, fun hsne => ?_, fun hld => ?_, fun hadd => ?_, fun hrnd => ?_⟩
  · exact ⟨decode_family3 hse, exec_writes (.seVxByte (X w) (KK w))⟩
  · exact ⟨decode_family4 hsne, exec_writes (.sneVxByte (X w) (KK w))⟩
  · exact ⟨decode_family6 hld, exec_writes (.ldVxByte (X w) (KK w))⟩
  · exact ⟨decode_family7 hadd, exec_writes (.addVxByte (X w) (KK w))⟩
  · exact ⟨decode_familyC hrnd, exec_writes (.rndVxByte (X w) (KK w))⟩

/-- Settles O12: the arms of families 0x5 and 0x9, which do not read N, and what `exec` of SE and SNE of two registers
writes. -/
theorem skipOnRegistersOutputs : Obligations.SkipOnRegistersOutputs := by
  unfold Obligations.SkipOnRegistersOutputs
  refine fun w => ⟨fun hse => ?_, fun hsne => ?_⟩
  · exact ⟨decode_family5 hse, exec_writes (.seVxVy (X w) (Y w))⟩
  · exact ⟨decode_family9 hsne, exec_writes (.sneVxVy (X w) (Y w))⟩

end Sys2Proof.Proofs
end

section
/-! PROOFS. Family 0x8 (R83 to R91): the row that each N of a named row selects. -/

namespace Sys2Proof

section
variable {w : Word}

theorem decodeFamily8_ld (h : fieldN w = 0x0#4) : decodeFamily8 w = .ldVxVy (fieldX w) (fieldY w) := by simp [decodeFamily8_eq, h]
theorem decodeFamily8_or (h : fieldN w = 0x1#4) : decodeFamily8 w = .orVxVy (fieldX w) (fieldY w) := by simp [decodeFamily8_eq, h]
theorem decodeFamily8_and (h : fieldN w = 0x2#4) : decodeFamily8 w = .andVxVy (fieldX w) (fieldY w) := by simp [decodeFamily8_eq, h]
theorem decodeFamily8_xor (h : fieldN w = 0x3#4) : decodeFamily8 w = .xorVxVy (fieldX w) (fieldY w) := by simp [decodeFamily8_eq, h]
theorem decodeFamily8_add (h : fieldN w = 0x4#4) : decodeFamily8 w = .addVxVy (fieldX w) (fieldY w) := by simp [decodeFamily8_eq, h]
theorem decodeFamily8_sub (h : fieldN w = 0x5#4) : decodeFamily8 w = .subVxVy (fieldX w) (fieldY w) := by simp [decodeFamily8_eq, h]
theorem decodeFamily8_shr (h : fieldN w = 0x6#4) : decodeFamily8 w = .shrVxVy (fieldX w) (fieldY w) := by simp [decodeFamily8_eq, h]
theorem decodeFamily8_subn (h : fieldN w = 0x7#4) : decodeFamily8 w = .subnVxVy (fieldX w) (fieldY w) := by simp [decodeFamily8_eq, h]
theorem decodeFamily8_shl (h : fieldN w = 0xE#4) : decodeFamily8 w = .shlVxVy (fieldX w) (fieldY w) := by simp [decodeFamily8_eq, h]

end

end Sys2Proof
end

section
/-! PROOFS. The statements of 43_family_8.md and of the default arms that families 0x8, 0xE and 0xF share (R92, R100, R110,
R111): each clause is the arm of its sub-key and what `exec` of the arm's instruction writes. -/

namespace Sys2Proof.Proofs
open Sys2Proof.Machine Sys2Proof.Claims

/-- Settles O13: the arms of family 0x8 for N 0 to 5 and 7, and what `exec` of each arm's instruction writes. -/
theorem familyEightPlainRowsOutputs : Obligations.FamilyEightPlainRowsOutputs := by
  unfold Obligations.FamilyEightPlainRowsOutputs
  intro w hF
  have hdecode : decode w = decodeFamily8 w := decode_family8 hF
  refine ⟨fun hld => ?_, fun hor => ?_, fun hand => ?_, fun hxor => ?_, fun hadd => ?_, fun hsub => ?_, fun hsubn => ?_⟩
  · exact ⟨hdecode.trans (decodeFamily8_ld hld), exec_writes (.ldVxVy (X w) (Y w))⟩
  · exact ⟨hdecode.trans (decodeFamily8_or hor), exec_writes (.orVxVy (X w) (Y w))⟩
  · exact ⟨hdecode.trans (decodeFamily8_and hand), exec_writes (.andVxVy (X w) (Y w))⟩
  · exact ⟨hdecode.trans (decodeFamily8_xor hxor), exec_writes (.xorVxVy (X w) (Y w))⟩
  · exact ⟨hdecode.trans (decodeFamily8_add hadd), exec_writes (.addVxVy (X w) (Y w))⟩
  · exact ⟨hdecode.trans (decodeFamily8_sub hsub), exec_writes (.subVxVy (X w) (Y w))⟩
  · exact ⟨hdecode.trans (decodeFamily8_subn hsubn), exec_writes (.subnVxVy (X w) (Y w))⟩

/-- Settles O14: the arms of family 0x8 for N 6 and 0xE, and what `exec` of SHR and SHL writes, whose braced-operand flag
is set. -/
theorem shiftRowsOutputsWithBracedOperand : Obligations.ShiftRowsOutputsWithBracedOperand := by
  unfold Obligations.ShiftRowsOutputsWithBracedOperand
  intro w hF
  have hdecode : decode w = decodeFamily8 w := decode_family8 hF
  refine ⟨fun hshr => ?_, fun hshl => ?_⟩
  · exact ⟨hdecode.trans (decodeFamily8_shr hshr), exec_writes (.shrVxVy (X w) (Y w))⟩
  · exact ⟨hdecode.trans (decodeFamily8_shl hshl), exec_writes (.shlVxVy (X w) (Y w))⟩

/-- Settles O19: the three kinds of word are those of the fallback space, each of which decodes to itself, and `exec` of a
fallback writes the word as its one operand. -/
theorem fallbackOutputsTheWholeWord : Obligations.FallbackOutputsTheWholeWord := by
  unfold Obligations.FallbackOutputsTheWholeWord
  refine fun w => ⟨fun h8 hN => ?_, fun hE hskp hsknp => ?_, fun hF hKK => ?_, exec_writes (.raw w)⟩
  · exact decode_of_inFallbackSpace (.inl ⟨h8, hN⟩)
  · exact decode_of_inFallbackSpace (.inr (.inl ⟨hE, by simp [hskp, hsknp]⟩))
  · exact decode_of_inFallbackSpace (.inr (.inr ⟨hF, hKK⟩))

end Sys2Proof.Proofs
end

section
/-! PROOFS. The statements of 44_families_9_to_D.md: families 0xA, 0xB and 0xD have one row each, so each clause is the arm of
its family and what `exec` of the arm's instruction writes. -/

namespace Sys2Proof.Proofs
open Sys2Proof.Machine Sys2Proof.Claims

/-- Settles O15: the arms of families 0xA and 0xB, and what `exec` of each arm's instruction writes. The register operand of
LD V0 is the constant 0, since its instruction carries NNN alone. -/
theorem addressLoadRowsOutputs : Obligations.AddressLoadRowsOutputs := by
  unfold Obligations.AddressLoadRowsOutputs
  refine fun w => ⟨fun hldI => ?_, fun hldV0 => ?_⟩
  · exact ⟨decode_familyA hldI, exec_writes (.ldIAddr (NNN w))⟩
  · exact ⟨decode_familyB hldV0, exec_writes (.ldV0Addr (NNN w))⟩

/-- Settles O16: the arm of family 0xD, and what `exec` of DRW writes, the one row that fills all three operand slots. -/
theorem drawOutputsThreeOperands : Obligations.DrawOutputsThreeOperands := by
  unfold Obligations.DrawOutputsThreeOperands
  intro w hdrw
  exact ⟨decode_familyD hdrw, exec_writes (.drwVxVyN (X w) (Y w) (N w))⟩

end Sys2Proof.Proofs
end

section
/-! PROOFS. Family 0xE (R98, R99): the row that each KK of a named row selects. -/

namespace Sys2Proof

section
variable {w : Word}

theorem decodeFamilyE_skp (h : fieldKK w = 0x9E#8) : decodeFamilyE w = .skpVx (fieldX w) := by
  rw [decodeFamilyE_eq, if_pos h]

theorem decodeFamilyE_sknp (h : fieldKK w = 0xA1#8) : decodeFamilyE w = .sknpVx (fieldX w) := by
  rw [decodeFamilyE_eq, if_neg (by rw [h]; decide), if_pos h]

end

end Sys2Proof
end

section
/-! PROOFS. The statement of 45_family_E.md: each clause is the arm of its sub-key and what `exec` of the arm's instruction
writes. -/

namespace Sys2Proof.Proofs
open Sys2Proof.Machine Sys2Proof.Claims

/-- Settles O17: the arms of family 0xE for KK 0x9E and 0xA1, and what `exec` of SKP and SKNP writes. -/
theorem skipOnKeyOutputs : Obligations.SkipOnKeyOutputs := by
  unfold Obligations.SkipOnKeyOutputs
  intro w hF
  have hdecode : decode w = decodeFamilyE w := decode_familyE hF
  refine ⟨fun hskp => ?_, fun hsknp => ?_⟩
  · exact ⟨hdecode.trans (decodeFamilyE_skp hskp), exec_writes (.skpVx (X w))⟩
  · exact ⟨hdecode.trans (decodeFamilyE_sknp hsknp), exec_writes (.sknpVx (X w))⟩

end Sys2Proof.Proofs
end

section
/-! PROOFS. Family 0xF (R101 to R109): the row that each KK of a named row selects. -/

namespace Sys2Proof

section
variable {w : Word}

theorem decodeFamilyF_ldVxDt (h : fieldKK w = 0x07#8) : decodeFamilyF w = .ldVxDt (fieldX w) := by simp [decodeFamilyF_eq, h]
theorem decodeFamilyF_ldVxKey (h : fieldKK w = 0x0A#8) : decodeFamilyF w = .ldVxKey (fieldX w) := by simp [decodeFamilyF_eq, h]
theorem decodeFamilyF_ldDtVx (h : fieldKK w = 0x15#8) : decodeFamilyF w = .ldDtVx (fieldX w) := by simp [decodeFamilyF_eq, h]
theorem decodeFamilyF_ldStVx (h : fieldKK w = 0x18#8) : decodeFamilyF w = .ldStVx (fieldX w) := by simp [decodeFamilyF_eq, h]
theorem decodeFamilyF_addIVx (h : fieldKK w = 0x1E#8) : decodeFamilyF w = .addIVx (fieldX w) := by simp [decodeFamilyF_eq, h]
theorem decodeFamilyF_ldCharVx (h : fieldKK w = 0x29#8) : decodeFamilyF w = .ldCharVx (fieldX w) := by simp [decodeFamilyF_eq, h]
theorem decodeFamilyF_ldBcdVx (h : fieldKK w = 0x33#8) : decodeFamilyF w = .ldBcdVx (fieldX w) := by simp [decodeFamilyF_eq, h]
theorem decodeFamilyF_ldMiVx (h : fieldKK w = 0x55#8) : decodeFamilyF w = .ldMiVx (fieldX w) := by simp [decodeFamilyF_eq, h]
theorem decodeFamilyF_ldVxMi (h : fieldKK w = 0x65#8) : decodeFamilyF w = .ldVxMi (fieldX w) := by simp [decodeFamilyF_eq, h]

end

end Sys2Proof
end

section
/-! PROOFS. The statement of 46_family_F.md: each clause is the arm of its sub-key and what `exec` of the arm's instruction
writes. -/

namespace Sys2Proof.Proofs
open Sys2Proof.Machine Sys2Proof.Claims

/-- Settles O18: the arms of family 0xF for its nine named values of KK, and what `exec` of each arm's instruction writes.
The order of X and the symbolic operand is that of the instruction's operand list. -/
theorem familyFifteenRowsOutputs : Obligations.FamilyFifteenRowsOutputs := by
  unfold Obligations.FamilyFifteenRowsOutputs
  intro w hF
  have hdecode : decode w = decodeFamilyF w := decode_familyF hF
  refine ⟨fun hldVxDt => ?_, fun hldVxKey => ?_, fun hldDtVx => ?_, fun hldStVx => ?_, fun haddIVx => ?_,
    fun hldCharVx => ?_, fun hldBcdVx => ?_, fun hldMiVx => ?_, fun hldVxMi => ?_⟩
  · exact ⟨hdecode.trans (decodeFamilyF_ldVxDt hldVxDt), exec_writes (.ldVxDt (X w))⟩
  · exact ⟨hdecode.trans (decodeFamilyF_ldVxKey hldVxKey), exec_writes (.ldVxKey (X w))⟩
  · exact ⟨hdecode.trans (decodeFamilyF_ldDtVx hldDtVx), exec_writes (.ldDtVx (X w))⟩
  · exact ⟨hdecode.trans (decodeFamilyF_ldStVx hldStVx), exec_writes (.ldStVx (X w))⟩
  · exact ⟨hdecode.trans (decodeFamilyF_addIVx haddIVx), exec_writes (.addIVx (X w))⟩
  · exact ⟨hdecode.trans (decodeFamilyF_ldCharVx hldCharVx), exec_writes (.ldCharVx (X w))⟩
  · exact ⟨hdecode.trans (decodeFamilyF_ldBcdVx hldBcdVx), exec_writes (.ldBcdVx (X w))⟩
  · exact ⟨hdecode.trans (decodeFamilyF_ldMiVx hldMiVx), exec_writes (.ldMiVx (X w))⟩
  · exact ⟨hdecode.trans (decodeFamilyF_ldVxMi hldVxMi), exec_writes (.ldVxMi (X w))⟩

end Sys2Proof.Proofs
end

section
/-! PROOFS. The text of an instruction in the reference rendering (R117 to R123), that every decode result renders as the
text of its instruction, and what the default file name is made of (R127). -/

namespace Sys2Proof.Machine

/-! ### The text of an operand (R119, R120, R121) -/

/-- The text of an operand; only the unused one has none. -/
def Operand.text (o : Operand) : String := (slotText o.pair).getD ""

theorem Operand.slotText_pair {o : Operand} (h : o.Proper) : slotText o.pair = some o.text := by
  obtain ⟨k, v⟩ := o
  cases k with
  | none => exact absurd rfl h.1
  | _ => rfl

theorem mapM_slotText_pair {ops : List Operand} (h : ∀ o ∈ ops, o.Proper) :
    (ops.map Operand.pair).mapM slotText = some (ops.map Operand.text) := by
  induction ops with
  | nil => rfl
  | cons o os ih =>
    obtain ⟨ho, hos⟩ := List.forall_mem_cons.mp h
    simp [Operand.slotText_pair ho, ih hos]

/-- The operand part of a text: the braced form, or the operand texts joined (R118, R122). -/
def operandsText (opt : Bool) (ops : List Operand) : String :=
  if opt then bracedText (slot ops 0).text (slot ops 1).text else joinTexts (ops.map Operand.text)

/-- The text of a mnemonic and its operands (R118). -/
def namedText (m : Mnem) (ops : List Operand) (opt : Bool) : String :=
  match ops with
  | [] => mnemText m
  | o :: os => mnemText m ++ " " ++ operandsText opt (o :: os)

theorem mnemText_ne_empty (m : Mnem) : mnemText m ≠ "" := by cases m <;> decide

/-! ### The text of what one `Emit` writes -/

section
variable {id : RowId} {m : Mnem} {ops : List Operand} {opt : Bool} {d : DecodeOut}

/-- The operands of an `Emit` have their texts, in order, whatever row it is for. -/
theorem operandTexts_emit (hlen : ops.length ≤ 3) (hops : ∀ o ∈ ops, o.Proper) :
    operandTexts (emit id m ops opt d) = some (ops.map Operand.text) := by
  have htake : (emit id m ops opt d).slots.take ops.length = ops.map Operand.pair := by
    rw [emit_slots id m opt d hlen, slotsOf, List.take_left' (List.length_map _)]
  rw [operandTexts, emit_nopsO, operandCount_toNat hlen, htake, mapM_slotText_pair hops]

theorem pairForm_emit (hlen : ops.length ≤ 3) (hops : ∀ o ∈ ops, o.Proper) :
    pairForm (emit id m ops opt d) = some (mnemText m, ops.map Operand.text) := by
  simp [pairForm, operandTexts_emit hlen hops]

/-- A named row renders by the number of its operands; a braced one has two. -/
theorem render_emit (hid : rawFlag id = false) (hlen : ops.length ≤ 3) (hops : ∀ o ∈ ops, o.Proper)
    (hopt : opt = true → ops.length = 2) : render (emit id m ops opt d) = some (namedText m ops opt) := by
  have hm : mnemOfCode (mnemCode m) = some m := mnemOfCode_mnemCode m
  have htext {o : Operand} (ho : o ∈ ops) : slotText o.pair = some o.text := Operand.slotText_pair (hops o ho)
  cases opt with
  | true =>
    obtain ⟨a, b, rfl⟩ := List.length_eq_two.mp (hopt rfl)
    exact render_braced hid rfl rfl hm (htext (by simp)) (htext (by simp))
  | false =>
    match ops, hlen with
    | [], _ => exact render_none hid rfl hm
    | [_], _ => exact render_one hid rfl rfl hm (htext (by simp))
    | [_, _], _ => exact render_two hid rfl rfl hm (htext (by simp)) (htext (by simp))
    | [_, _, _], _ => exact render_three hid rfl rfl hm (htext (by simp)) (htext (by simp)) (htext (by simp))

end

/-! ### The default file name (R127) -/

/-- The default name is made of the path's base name alone, of the whole of it or of its stem. -/
theorem dumpName_eq {path : String} {base : List Char} (h : baseNameChars path.toList = base) :
    dumpName path = String.ofList (if Config.keepsExtension then base else stemChars base) ++ "_dump.txt" := by
  rw [← h]; rfl

end Sys2Proof.Machine

namespace Sys2Proof
open Sys2Proof.Machine

/-! ### The text of a decode result -/

/-- The text of an instruction: the word of a fallback, or the mnemonic and the operands (R118, R123). -/
def Instr.text (i : Instr) : String :=
  if rawFlag i.row then (slot (operandsOf i) 0).text else namedText (mnemOf i) (operandsOf i) (optOf i)

theorem length_operandsOf_of_optOf {i : Instr} (h : optOf i = true) : (operandsOf i).length = 2 := by
  cases i with
  | shrVxVy | shlVxVy => rfl
  | _ => contradiction

/-- Every word renders as the text of its instruction (R118). -/
theorem render_blockDecode (w : Word) : render (blockDecode w) = some (decode w).text := by
  rw [blockDecode_eq_emitOf]
  by_cases hraw : (decode w).row = .raw
  · obtain ⟨v, hv⟩ := Instr.exists_eq_raw_of_row hraw
    rw [hv]
    exact render_raw rfl
  · have hflag : rawFlag (decode w).row = false := by simpa [← rawFlag_eq_true_iff] using hraw
    rw [Instr.text, if_neg (by simp [hflag])]
    exact render_emit hflag (operandsOf_length _) (operandsOf_proper _) length_operandsOf_of_optOf

theorem render_of_decode {w : Word} {i : Instr} (h : decode w = i) : render (blockDecode w) = some i.text :=
  h ▸ render_blockDecode w

theorem pairForm_blockDecode (w : Word) :
    pairForm (blockDecode w) = some (mnemText (mnemOf (decode w)), (operandsOf (decode w)).map Operand.text) := by
  rw [blockDecode_eq_emitOf]
  exact pairForm_emit (operandsOf_length _) (operandsOf_proper _)

@[simp] theorem blockDecode_mnemO (w : Word) : (blockDecode w).mnemO = mnemCode (mnemOf (decode w)) := by
  rw [blockDecode_eq_emitOf]; rfl

/-! ### The word of a fallback (R111, R114) -/

/-- Only a fallback has `raw_o` 1, and its one operand is the word. -/
theorem blockDecode_v1O_of_rawO {w : Word} (h : (blockDecode w).rawO = true) : (blockDecode w).v1O = w := by
  rw [blockDecode_eq_emitOf] at h ⊢
  have hdecode : decode w = .raw w :=
    decode_of_inFallbackSpace ((row_decode_eq_raw_iff w).mp ((rawFlag_eq_true_iff _).mp h))
  rw [hdecode]
  rfl

end Sys2Proof
end

section
/-! PROOFS. The statements of 47_fallback.md and 48_reference_rendering.md: the word recovered from the outputs, a mnemonic and a
text for every word, the text of every row, and the default file name. -/

namespace Sys2Proof.Proofs
open Sys2Proof.Machine Sys2Proof.Claims

/-- Settles O27: an evaluation leaves `Decode` of the word on the ports, where a fallback has it as operand 1, and F and NNN
make up the word. -/
theorem inputWordIsRecoverable : Obligations.InputWordIsRecoverable := by
  unfold Obligations.InputWordIsRecoverable
  intro w s t h
  obtain rfl := evalWord_next_inv h
  rw [afterEval_out, blockDecode_famO, blockDecode_nnnO]
  exact ⟨blockDecode_v1O_of_rawO, packNNN_fields w⟩

/-- Settles O54: the mnemonic and the operands of the decoded instruction all have texts. -/
theorem everyWordHasAMnemonic : Obligations.EveryWordHasAMnemonic := by
  unfold Obligations.EveryWordHasAMnemonic
  intro w
  refine ⟨?_, ⟨_, pairForm_blockDecode w, mnemText_ne_empty _⟩, ⟨_, render_blockDecode w⟩⟩
  rw [blockDecode_mnemO]
  exact Nat.le_of_lt_succ (mnemCode_lt _)

/-- SHR and SHL render in the braced form, character by character (R122). -/
theorem printsBraced_of_decode {w : Word} {m a b : String} {i : Instr} (h : decode w = i)
    (htext : i.text = m ++ " " ++ bracedText a b) : PrintsBraced w m a b := by
  rw [PrintsBraced, render_of_decode h, htext, bracedText_chars]

/-- Settles O55: each clause is the arm that selects the row and the text of the arm's instruction. -/
theorem renderedLayout : Obligations.RenderedLayout := by
  unfold Obligations.RenderedLayout
  refine ⟨fun w => ⟨fun h => ?_, fun hF h => ?_, fun hF h => ?_, fun hF hcls hret => ?_, fun h => ?_, fun h => ?_, fun h => ?_,
      fun h => ?_, fun h => ?_, fun h => ?_, fun h => ?_, fun h => ?_, fun h => ?_, fun h => ?_, fun h => ?_, fun h => ?_⟩,
    fun w hF => ?_, fun w hF => ?_, fun w hF => ?_, ?_, ?_, ?_, ?_⟩
  · exact render_of_decode (decode_of_inFallbackSpace h)
  · exact render_of_decode ((decode_family0 hF).trans (decodeFamily0_cls h))
  · exact render_of_decode ((decode_family0 hF).trans (decodeFamily0_ret h))
  · exact render_of_decode ((decode_family0 hF).trans (decodeFamily0_sys hcls hret))
  · exact render_of_decode (decode_family1 h)
  · exact render_of_decode (decode_family2 h)
  · exact render_of_decode (decode_family3 h)
  · exact render_of_decode (decode_family4 h)
  · exact render_of_decode (decode_family5 h)
  · exact render_of_decode (decode_family6 h)
  · exact render_of_decode (decode_family7 h)
  · exact render_of_decode (decode_family9 h)
  · exact render_of_decode (decode_familyA h)
  · exact render_of_decode (decode_familyB h)
  · exact render_of_decode (decode_familyC h)
  · exact render_of_decode (decode_familyD h)
  · have hdecode : decode w = decodeFamily8 w := decode_family8 hF
    refine ⟨fun h => ?_, fun h => ?_, fun h => ?_, fun h => ?_, fun h => ?_, fun h => ?_, fun h => ?_, fun h => ?_, fun h => ?_⟩
    · exact render_of_decode (hdecode.trans (decodeFamily8_ld h))
    · exact render_of_decode (hdecode.trans (decodeFamily8_or h))
    · exact render_of_decode (hdecode.trans (decodeFamily8_and h))
    · exact render_of_decode (hdecode.trans (decodeFamily8_xor h))
    · exact render_of_decode (hdecode.trans (decodeFamily8_add h))
    · exact render_of_decode (hdecode.trans (decodeFamily8_sub h))
    · exact printsBraced_of_decode (hdecode.trans (decodeFamily8_shr h)) rfl
    · exact render_of_decode (hdecode.trans (decodeFamily8_subn h))
    · exact printsBraced_of_decode (hdecode.trans (decodeFamily8_shl h)) rfl
  · have hdecode : decode w = decodeFamilyE w := decode_familyE hF
    refine ⟨fun h => ?_, fun h => ?_⟩
    · exact render_of_decode (hdecode.trans (decodeFamilyE_skp h))
    · exact render_of_decode (hdecode.trans (decodeFamilyE_sknp h))
  · have hdecode : decode w = decodeFamilyF w := decode_familyF hF
    refine ⟨fun h => ?_, fun h => ?_, fun h => ?_, fun h => ?_, fun h => ?_, fun h => ?_, fun h => ?_, fun h => ?_, fun h => ?_⟩
    · exact render_of_decode (hdecode.trans (decodeFamilyF_ldVxDt h))
    · exact render_of_decode (hdecode.trans (decodeFamilyF_ldVxKey h))
    · exact render_of_decode (hdecode.trans (decodeFamilyF_ldDtVx h))
    · exact render_of_decode (hdecode.trans (decodeFamilyF_ldStVx h))
    · exact render_of_decode (hdecode.trans (decodeFamilyF_addIVx h))
    · exact render_of_decode (hdecode.trans (decodeFamilyF_ldCharVx h))
    · exact render_of_decode (hdecode.trans (decodeFamilyF_ldBcdVx h))
    · exact render_of_decode (hdecode.trans (decodeFamilyF_ldMiVx h))
    · exact render_of_decode (hdecode.trans (decodeFamilyF_ldVxMi h))
  · decide
  · decide
  · decide
  · decide

/-- Settles O57: the base name is the file's name with or without a directory before it, and its stem ends at the last
period; the parameter U11 chooses between the two. -/
theorem defaultFileNameIsBaseNameWithSuffix : Obligations.DefaultFileNameIsBaseNameWithSuffix := by
  unfold Obligations.DefaultFileNameIsBaseNameWithSuffix
  refine ⟨fun _ _ => ⟨rfl, rfl⟩, fun dir stem ext hstem hext hdot => ?_⟩
  have hslash : '/' ∉ (stem ++ "." ++ ext).toList := by simp [hstem, hext]
  have hplain := dumpName_eq (baseNameChars_plain hslash)
  have hdir : baseNameChars (dir ++ "/" ++ (stem ++ "." ++ ext)).toList = (stem ++ "." ++ ext).toList := by
    simpa using baseNameChars_append dir.toList hslash
  refine ⟨dumpName (stem ++ "." ++ ext), ?_, rfl, congrArg Destination.file ((dumpName_eq hdir).trans hplain.symm)⟩
  rw [hplain]
  split
  · exact .inl (by rw [String.ofList_toList])
  · have hstemChars : stemChars (stem ++ "." ++ ext).toList = stem.toList := by
      simpa using stemChars_append stem.toList hdot
    exact .inr (by rw [hstemChars, String.ofList_toList])

end Sys2Proof.Proofs
end

section
/-! PROOFS. The scan by what stands at `off` (R129 to R138), what a sound state lists (R139), and the wires of a driven block
(R158). -/

namespace Sys2Proof.Machine

/-! ### The fetch and the step, by what stands at `off` -/

section
variable {s : State}

theorem step_of_not_loaded (hp : s.phase = .scan) (hl : s.loaded = false) :
    step s = .refused (.scanNotLoaded s.outcome) := by simp [step, phaseStep, hp, scanStep, State.fetch, hl]

/-- At the bound, and past it, the scan stops without a read (R132). -/
theorem fetch_of_bound (hl : s.loaded = true) (hoff : Config.base + s.len ≤ s.off) : s.fetch = .stop .bound :=
  fetch_stop_iff.mpr ⟨hl, .inl ⟨rfl, hoff⟩⟩

/-- On the word 0x0000 the scan stops (R134). -/
theorem fetch_of_sentinel (hl : s.loaded = true) (hoff : s.off < Config.base + s.len) (hin : s.off + 1 < Config.memSize)
    (hw : s.mem.wordAt s.off = 0x0000#16) : s.fetch = .stop .sentinel :=
  fetch_stop_iff.mpr ⟨hl, .inr ⟨rfl, hoff, hin, hw⟩⟩

/-- The state after one turn of the scan that finds a word (R133, R135, R136). -/
def State.scanned (s : State) : State :=
  { s with
    wordI := s.mem.wordAt s.off, out := blockDecode (s.mem.wordAt s.off),
    listing := s.listing ++ [⟨s.off, blockDecode (s.mem.wordAt s.off)⟩], off := s.off + 2 }

theorem step_of_word (hp : s.phase = .scan) (hl : s.loaded = true) (hoff : s.off < Config.base + s.len)
    (hin : s.off + 1 < Config.memSize) (hw : s.mem.wordAt s.off ≠ 0x0000#16) : step s = .next s.scanned := by
  rw [step_of_fetch_word hp (fetch_word_iff.mpr ⟨hl, hoff, hin, hw, rfl⟩), afterEval_eq]
  rfl

end

/-- A word whose low byte is zero is its high byte shifted (R33). -/
theorem Memory.wordAt_of_low_zero {m : Memory} {a : Nat} (h : m.read (a + 1) = 0x00#8) :
    m.wordAt a = (m.read a).setWidth 16 <<< 8 := by simp [Memory.wordAt, wordOfBytes, h]

/-! ### What a sound state lists (R139) -/

@[simp] theorem length_listingOf (m : Memory) (n : Nat) : (listingOf m n).length = n := by simp [listingOf]

theorem getElem_listingOf_offset (m : Memory) (n k : Nat) (h : k < (listingOf m n).length) :
    ((listingOf m n)[k]).offset = scanOffset k := by simp [listingOf]

namespace State.Inv
variable {s : State}

theorem length_listing (h : s.Inv) : s.listing.length = wordsPassed s.off := by rw [h.listingEq, length_listingOf]

/-- Nothing is listed as long as nothing is loaded (R31, R156). -/
theorem listing_of_not_loaded (h : s.Inv) (hl : s.loaded = false) : s.listing = [] := by
  rw [h.listingEq, (h.notLoaded hl).2, wordsPassed_base, listingOf_zero]

/-- A word driven from outside leaves the harness's items, and no longer is a run under way (R25, R158). -/
theorem drive (w : Word) (h : s.Inv) : (s.drive w).Inv :=
  { h with
    atLoad := by simp
    atScan := by simp
    atEnd := by simp
    atBound := by simp
    atSentinel := by simp
    atFailure := by simp
    busSettled := rfl }

/-- A run ends: a failed load at once, and the scan of the longest input that fits within 1793 turns (R139). -/
theorem run_ends (h : s.Inv) (hp : s.phase = .load) :
    ∃ (k : Nat) (t : State) (r : StopReason), k ≤ 1794 ∧ Sys2Proof.core.run k s = .next t ∧ t.phase = .ended r := by
  have hstep : Machine.step s = .next s.load := step_of_load hp
  rcases step_phase_of_load hstep hp with hscan | hfail
  · have hload := h.load hp
    obtain ⟨t, hrun, -, -, hend⟩ := hload.run_scan hscan 1793
    have hpast : Config.base + s.load.len + 1 < s.load.off + 2 * 1793 := by
      have hlen := hload.lenBound
      have hoff := hload.offLow
      unfold Config.maxLoad Config.memSize Config.base at *
      omega
    have hrun' : Sys2Proof.core.run 1794 s = .next t := by rw [run_succ_of_next hstep, hrun]
    rcases hend hpast with hb | hs
    · exact ⟨1794, t, .bound, le_rfl, hrun', hb⟩
    · exact ⟨1794, t, .sentinel, le_rfl, hrun', hs⟩
  · exact ⟨1, s.load, .loadFailed, by decide, run_succ_of_next hstep 0, hfail⟩

end State.Inv

/-- A driven block stands still: its wires have settled (R158). -/
theorem step_drive_self (s : State) (w : Word) : step (s.drive w) = .next (s.drive w) := by
  rw [step_drive, afterEval_eq]
  rfl

end Sys2Proof.Machine
end

section
/-! PROOFS. The statements of 49_scan_harness.md, 60_exceptions.md and 70_reset_and_hazards.md: one turn of the scan, its two ends,
the listing of a sound state, the end of every run, no exception, and a driven block. -/

namespace Sys2Proof.Proofs
open Sys2Proof.Machine

/-- Settles O36: the scan is refused where nothing is loaded, and a failed load leaves nothing loaded. -/
theorem noScanAfterFailedLoad : Obligations.NoScanAfterFailedLoad := by
  unfold Obligations.NoScanAfterFailedLoad
  refine ⟨fun s => step_of_not_loaded, fun s hinv hp => ?_⟩
  obtain ⟨hl, -⟩ := hinv.atFailure hp
  exact ⟨step_of_loadFailed hp, hl, hinv.listing_of_not_loaded hl, fun _ _ => by simp [dump, hp]⟩

/-- Settles O38: the turn evaluates the word fetched and records what is then on the ports. -/
theorem scanStepAppendsTheDecodedWord : Obligations.ScanStepAppendsTheDecodedWord := by
  unfold Obligations.ScanStepAppendsTheDecodedWord
  exact fun s => step_of_word

/-- Settles O39: at the bound the fetch is a stop. -/
theorem scanStopsAtTheBound : Obligations.ScanStopsAtTheBound := by
  unfold Obligations.ScanStopsAtTheBound
  exact fun s hp hl hoff => ⟨_, step_of_fetch_stop hp (fetch_of_bound hl hoff), rfl, rfl, rfl⟩

/-- Settles O40: a word fetched is not the sentinel, and on the sentinel the fetch is a stop. -/
theorem scanStopsAtTheSentinel : Obligations.ScanStopsAtTheSentinel := by
  unfold Obligations.ScanStopsAtTheSentinel
  refine ⟨fun s t hp hstep => ?_, fun s hp hl hoff hin hw => ?_⟩
  · rcases step_cases hstep with ⟨hload, -⟩ | ⟨-, w, hf, rfl⟩ | ⟨-, r, -, rfl⟩ | ⟨hdriven, -⟩ | ⟨-, rfl⟩
    · simp [hp] at hload
    · obtain ⟨-, -, -, hne, -⟩ := fetch_word_iff.mp hf
      exact .inr hne
    · exact .inl rfl
    · simp [hp] at hdriven
    · exact .inl rfl
  · exact ⟨_, step_of_fetch_stop hp (fetch_of_sentinel hl hoff hin hw), rfl, rfl, rfl⟩

/-- Settles O42: of the steps after the load, only the record of a fetched word moves `off` and the listing. -/
theorem scanIsLinear : Obligations.ScanIsLinear := by
  unfold Obligations.ScanIsLinear
  intro s t hp hstep
  rcases step_cases hstep with ⟨hload, -⟩ | ⟨hscan, w, -, rfl⟩ | ⟨-, r, -, rfl⟩ | ⟨-, rfl⟩ | ⟨-, rfl⟩
  · exact absurd hload hp
  · exact .inr ⟨rfl, hscan, hscan, _, rfl⟩
  · exact .inl ⟨rfl, rfl⟩
  · exact .inl ⟨rfl, rfl⟩
  · exact .inl ⟨rfl, rfl⟩

/-- Settles O44: the low byte of the last word is beyond the program and so zero, and the word is the sentinel exactly when
its high byte is zero too. -/
theorem oddTrailingByteIsScannedWithZeroLowByte : Obligations.OddTrailingByteIsScannedWithZeroLowByte := by
  unfold Obligations.OddTrailingByteIsScannedWithZeroLowByte
  intro s hinv hp _ hlast
  obtain ⟨hl, -⟩ := hinv.atScan hp
  have hoff : s.off < Config.base + s.len := by rw [Config.base]; omega
  have hin : s.off + 1 < Config.memSize := Nat.lt_of_le_of_lt (Nat.succ_le_succ (hinv.off_le_of_lt hoff)) (by decide)
  have hlow : s.mem.read (s.off + 1) = 0x00#8 := hinv.zeroOutside _ (.inr hlast.ge)
  refine ⟨Memory.wordAt_of_low_zero hlow, fun hbyte => ?_, fun hbyte => ?_⟩
  · have hw : s.mem.wordAt s.off ≠ 0x0000#16 := fun hw => hbyte (Memory.wordAt_eq_zero_iff.mp hw).1
    exact ⟨_, step_of_word hp hl hoff hin hw, rfl⟩
  · have hw : s.mem.wordAt s.off = 0x0000#16 := Memory.wordAt_eq_zero_iff.mpr ⟨hbyte, hlow⟩
    exact ⟨_, step_of_fetch_stop hp (fetch_of_sentinel hl hoff hin hw), rfl, rfl⟩

/-- Settles O45: the listing has one entry for each word passed, and `off` passes the program by at most one byte. -/
theorem listingOffsetsAndSize : Obligations.ListingOffsetsAndSize := by
  unfold Obligations.ListingOffsetsAndSize
  refine fun s hinv => ⟨?_, ?_⟩
  · rw [hinv.listingEq]
    exact getElem_listingOf_offset s.programImage (wordsPassed s.off)
  · have hhigh := hinv.offHigh
    rw [hinv.length_listing, wordsPassed]
    omega

/-- Settles O50: one step of the loader, and as many of the scan as pass the bound. -/
theorem everyRunEnds : Obligations.EveryRunEnds := by
  unfold Obligations.EveryRunEnds
  exact fun s hinv => hinv.run_ends

/-- Settles O29: every meaning is one `Emit` of its row. -/
theorem noInstructionRaisesAnException : Obligations.NoInstructionRaisesAnException := by
  unfold Obligations.NoInstructionRaisesAnException
  exact fun i s => ⟨afterExec i s, exec_eq i s, rfl⟩

/-- Settles O56: the ports stand at `Decode` of the driven word, where an evaluation of it leaves them and a new run does
not write. -/
theorem drivenBlockSettles : Obligations.DrivenBlockSettles := by
  unfold Obligations.DrivenBlockSettles
  refine ⟨fun s w input => ⟨State.drive_wordI s w, State.drive_out s w, step_drive_self s w, ?_⟩, fun s w hinv => hinv.drive w⟩
  rw [State.startRun_out, State.startRun_wordI, State.drive_out, State.drive_wordI]

end Sys2Proof.Proofs
end
